-- ==== Sys2Proof/Word.lean ====
section
/-! DEFINITION. The word types of the block (00_scope.md R11, R12): every quantity is unsigned. -/

namespace Sys2Proof

/-- One byte of the local buffer or of external memory (10_state.md R29). -/
abbrev Byte := BitVec 8

/-- A register value or a transfer size (00_scope.md R11: "32 bits, every register"). -/
abbrev Word := BitVec 32

/-- An external address or a reconstructed local-buffer offset (41_dma_engine.md R142). -/
abbrev Addr := BitVec 64

/-- The data a transaction carries, up to 64 bits (20_memory.md R53). -/
abbrev Data := BitVec 64

/-- A byte offset in the 4096-byte register window (30_encoding.md R80, field `off`). -/
abbrev Offset := BitVec 12

/-- The bytes of the local buffer (00_scope.md R11, `BUF_SIZE`). -/
abbrev bufSize : Nat := 4096

end Sys2Proof
end

