-- ==== Sys2Proof/Config.lean ====
section
/-! DEFINITION. What an implementation of the block fixes, and the values the spec leaves free (00_scope.md R11). A constant
declared `opaque` has no body: nothing proved about the machine can depend on its value. -/

namespace Sys2Proof

/-- The direction of a transfer (41_dma_engine.md R141). -/
inductive Direction where
  /-- external → local, code 1 -/
  | read
  /-- local → external, code 2 -/
  | write
deriving DecidableEq, Repr, Inhabited

/-- The interrupt delivery modes, a closed set (00_scope.md R3). -/
inductive Mode where
  | legacy
  | singleVector
  | multiVector
deriving DecidableEq, Repr, Inhabited

/-- What a `command` write with both trigger bits set does (92_eei_decisions.md D12). -/
inductive DualTrigger where
  | readOnly
  | writeOnly
  | readThenWrite
  | writeThenRead
deriving DecidableEq, Repr, Inhabited

/-- The answer of the host's external memory to one call (20_memory.md R57). A `MemWrite` looks only at which of the two it is. -/
inductive ExtAnswer where
  | ok (bytes : List Byte)
  | fail
deriving DecidableEq, Repr, Inhabited

/-- The reset values of the five descriptor registers, `DESC_RESET` (92_eei_decisions.md D19). -/
structure DescReset where
  srcLow : Word
  srcHigh : Word
  dstLow : Word
  dstHigh : Word
  size : Word
deriving DecidableEq, Repr, Inhabited

namespace Config

/-- `DUAL_TRIGGER` (D12): OPEN, so it has no body. Log entry 6. -/
opaque dualTrigger : DualTrigger

/-- The `DESC_RESET` that `State.reset` uses. DESIGN CHOICE (log entry 4): zeros, the value D19 lets a simulator take; the spec
gives none. Statements about reset quantify over every `DescReset`. -/
def descReset : DescReset := { srcLow := 0, srcHigh := 0, dstLow := 0, dstHigh := 0, size := 0 }

/-- The interrupt mode that `State.reset` holds. DESIGN CHOICE (log entry 10): the mode is the host's (70_reset_and_hazards.md
R231); `Legacy` is the "fallback when neither message mode is negotiated" (42_interrupt_dispatcher.md R170). -/
def initialMode : Mode := .legacy

/-- `BUF_INIT` (D20): byte `i` of the local buffer after reset, for `i` below 4096. OPEN, so it has no body. Log entry 5. -/
opaque bufInit : Nat → Byte

/-- `EXT_MEM` (D15): what the external memory answers to the call of index `k` where the host's list of answers is exhausted.
Log entry 7. -/
opaque extAnswer : Nat → ExtAnswer

/-- `EXT_MEM` (D15): byte `i` that a successful read, call index `k`, returns where the host's answer does not give it.
Log entry 7. -/
opaque extByte : Nat → Nat → Byte

/-- The draws of 41_dma_engine.md R157: byte `i` of the destination range after a failed read, draw index `k`. Log entry 8. -/
opaque failedReadByte : Nat → Nat → Byte

end Config
end Sys2Proof
end

