-- ==== Sys2Proof/Syntax.lean ====
section
/-! DEFINITION. The transactions of the block as syntax: one constructor of `Instr` for each row of spec/opcode_table.json
(30_encoding.md R83), and the pseudo-transactions of R88. -/

namespace Sys2Proof

/-- The honoured access widths (20_memory.md R53): 1, 2 and 4 bytes. -/
inductive Width where
  | b1
  | b2
  | b4
deriving DecidableEq, Repr, Inhabited

/-- The width in bytes, `w = 1 << sz` (30_encoding.md R81). -/
def Width.bytes : Width → Nat
  | .b1 => 1
  | .b2 => 2
  | .b4 => 4

/-- The eight mapped registers (20_memory.md R51). -/
inductive Reg where
  | command
  | srcLow
  | srcHigh
  | dstLow
  | dstHigh
  | size
  | status
  | scratch
deriving DecidableEq, Repr, Inhabited

/-- A transaction the bus delivers to the register window. A write carries its data operand `wdata` (30_encoding.md R80). -/
inductive Instr where
  /-- RD.CMD, 40_register_file.md R100 -/
  | rdCmd (w : Width)
  /-- WR.CMD, R101 -/
  | wrCmd (w : Width) (wdata : Data)
  /-- RD.SRC_LO, R102 -/
  | rdSrcLo (w : Width)
  /-- WR.SRC_LO, R103 -/
  | wrSrcLo (w : Width) (wdata : Data)
  /-- RD.SRC_HI, R104 -/
  | rdSrcHi (w : Width)
  /-- WR.SRC_HI, R105 -/
  | wrSrcHi (w : Width) (wdata : Data)
  /-- RD.DST_LO, R106 -/
  | rdDstLo (w : Width)
  /-- WR.DST_LO, R107 -/
  | wrDstLo (w : Width) (wdata : Data)
  /-- RD.DST_HI, R108 -/
  | rdDstHi (w : Width)
  /-- WR.DST_HI, R109 -/
  | wrDstHi (w : Width) (wdata : Data)
  /-- RD.SIZE, R110 -/
  | rdSize (w : Width)
  /-- WR.SIZE, R111 -/
  | wrSize (w : Width) (wdata : Data)
  /-- RD.STATUS, R114 -/
  | rdStatus (w : Width)
  /-- WR.STATUS, R115 -/
  | wrStatus (w : Width) (wdata : Data)
  /-- RD.SCRATCH, R116 -/
  | rdScratch (w : Width)
  /-- WR.SCRATCH, R117 -/
  | wrScratch (w : Width) (wdata : Data)
  /-- RD.WIDE, R120: an 8-byte read at any offset -/
  | rdWide (off : Offset)
  /-- WR.WIDE, R121: an 8-byte write at any offset -/
  | wrWide (off : Offset) (wdata : Data)
  /-- RD.UNMAPPED, R122: an honoured-width read at an offset that maps no register -/
  | rdUnmapped (w : Width) (off : Offset)
  /-- WR.UNMAPPED, R123: an honoured-width write at an offset that maps no register -/
  | wrUnmapped (w : Width) (off : Offset) (wdata : Data)
deriving DecidableEq, Repr, Inhabited

/-- The row of spec/opcode_table.json an instruction stands for. -/
def Instr.mnemonic : Instr → String
  | .rdCmd _ => "RD.CMD"
  | .wrCmd _ _ => "WR.CMD"
  | .rdSrcLo _ => "RD.SRC_LO"
  | .wrSrcLo _ _ => "WR.SRC_LO"
  | .rdSrcHi _ => "RD.SRC_HI"
  | .wrSrcHi _ _ => "WR.SRC_HI"
  | .rdDstLo _ => "RD.DST_LO"
  | .wrDstLo _ _ => "WR.DST_LO"
  | .rdDstHi _ => "RD.DST_HI"
  | .wrDstHi _ _ => "WR.DST_HI"
  | .rdSize _ => "RD.SIZE"
  | .wrSize _ _ => "WR.SIZE"
  | .rdStatus _ => "RD.STATUS"
  | .wrStatus _ _ => "WR.STATUS"
  | .rdScratch _ => "RD.SCRATCH"
  | .wrScratch _ _ => "WR.SCRATCH"
  | .rdWide _ => "RD.WIDE"
  | .wrWide _ _ => "WR.WIDE"
  | .rdUnmapped _ _ => "RD.UNMAPPED"
  | .wrUnmapped _ _ _ => "WR.UNMAPPED"

end Sys2Proof
end

