-- ==== Sys2Proof/WellFormed.lean ====
section
/-! DEFINITION. Which terms of `Instr` are transactions the bus can deliver (30_encoding.md R81, R83). -/

namespace Sys2Proof

/-- R81: the bits of `wdata` above `8*w` are zero. -/
def Width.fits (w : Width) (wdata : Data) : Bool := decide (wdata.toNat < 2 ^ (8 * w.bytes))

/-- The eight mapped offsets (20_memory.md R51). -/
def mappedOffsets : List Offset := [0x000, 0x004, 0x008, 0x00C, 0x010, 0x014, 0x018, 0x01C]

/-- An offset that maps one of the eight registers, matched exactly (20_memory.md R52). -/
def isMapped (off : Offset) : Bool := decide (off ∈ mappedOffsets)

/-- The well-formed transactions: a write's data fits its width (R81, R87), and an unmapped kind names an unmapped offset (R83). -/
def Instr.wf : Instr → Bool
  | .rdCmd _ => true
  | .wrCmd w d => w.fits d
  | .rdSrcLo _ => true
  | .wrSrcLo w d => w.fits d
  | .rdSrcHi _ => true
  | .wrSrcHi w d => w.fits d
  | .rdDstLo _ => true
  | .wrDstLo w d => w.fits d
  | .rdDstHi _ => true
  | .wrDstHi w d => w.fits d
  | .rdSize _ => true
  | .wrSize w d => w.fits d
  | .rdStatus _ => true
  | .wrStatus w d => w.fits d
  | .rdScratch _ => true
  | .wrScratch w d => w.fits d
  | .rdWide _ => true
  | .wrWide _ _ => true
  | .rdUnmapped _ off => !isMapped off
  | .wrUnmapped w off d => !isMapped off && w.fits d

end Sys2Proof
end

