-- ==== Sys2Proof/Decode.lean ====
section
/-! DEFINITION. Decoding a transaction (30_encoding.md R80 to R86), the encoder, and the opcode map of R83 as rows. -/

namespace Sys2Proof

/-- Why a transaction cannot be delivered (R86), each by its own name. -/
inductive Reject where
  /-- the descriptor has `rsv = 1` -/
  | reservedBit
  /-- a width other than 1, 2, 4 and 8 bytes -/
  | badWidth
  /-- an offset of 4096 or more -/
  | outsideWindow
  /-- a write whose `wdata` has a bit set above its width (R81; DEDUCED, log entry 12) -/
  | dataAboveWidth
  /-- a byte string that stops inside a transaction -/
  | truncated
deriving DecidableEq, Repr, Inhabited

/-- The offset of a register (20_memory.md R51). -/
def Reg.offset : Reg → Offset
  | .command => 0x000
  | .srcLow => 0x004
  | .srcHigh => 0x008
  | .dstLow => 0x00C
  | .dstHigh => 0x010
  | .size => 0x014
  | .status => 0x018
  | .scratch => 0x01C

/-- The address decoder: the register an offset maps, matched exactly (R52). -/
def regAt (off : Offset) : Option Reg :=
  if off = 0x000 then some .command
  else if off = 0x004 then some .srcLow
  else if off = 0x008 then some .srcHigh
  else if off = 0x00C then some .dstLow
  else if off = 0x010 then some .dstHigh
  else if off = 0x014 then some .size
  else if off = 0x018 then some .status
  else if off = 0x01C then some .scratch
  else none

/-- Field `sz` of the descriptor: the code of an honoured width (R80). -/
def Width.code : Width → BitVec 2
  | .b1 => 0
  | .b2 => 1
  | .b4 => 2

/-- The honoured width of a `sz` code; none for code 3, the 8-byte access (R80). -/
def widthOf (sz : BitVec 2) : Option Width :=
  if sz = 0 then some .b1
  else if sz = 1 then some .b2
  else if sz = 2 then some .b4
  else none

/-- The read of a register (R83, `dir = 0`). -/
def readOf (w : Width) : Reg → Instr
  | .command => .rdCmd w
  | .srcLow => .rdSrcLo w
  | .srcHigh => .rdSrcHi w
  | .dstLow => .rdDstLo w
  | .dstHigh => .rdDstHi w
  | .size => .rdSize w
  | .status => .rdStatus w
  | .scratch => .rdScratch w

/-- The write of a register (R83, `dir = 1`). -/
def writeOf (w : Width) (wdata : Data) : Reg → Instr
  | .command => .wrCmd w wdata
  | .srcLow => .wrSrcLo w wdata
  | .srcHigh => .wrSrcHi w wdata
  | .dstLow => .wrDstLo w wdata
  | .dstHigh => .wrDstHi w wdata
  | .size => .wrSize w wdata
  | .status => .wrStatus w wdata
  | .scratch => .wrScratch w wdata

/-- An honoured-width read at an offset (R82, points 3 and 4). -/
def decodeRead (w : Width) (off : Offset) : Instr :=
  match regAt off with
  | some r => readOf w r
  | none => .rdUnmapped w off

/-- An honoured-width write at an offset (R82, points 3 and 4). -/
def decodeWrite (w : Width) (off : Offset) (wdata : Data) : Instr :=
  match regAt off with
  | some r => writeOf w wdata r
  | none => .wrUnmapped w off wdata

/-- Fields of the descriptor (R80). -/
def descOff (t : BitVec 16) : Offset := t.extractLsb' 0 12
def descSz (t : BitVec 16) : BitVec 2 := t.extractLsb' 12 2
def descDir (t : BitVec 16) : Bool := t.getLsbD 14
def descRsv (t : BitVec 16) : Bool := t.getLsbD 15

/-- Decode one transaction, in the order of R82: the reserved bit, the width, then the offset. A read ignores `wdata`. -/
def decodeTxn (t : BitVec 16) (wdata : Data) : Except Reject Instr :=
  if descRsv t then .error .reservedBit
  else
    match widthOf (descSz t) with
    | none => .ok (if descDir t then .wrWide (descOff t) wdata else .rdWide (descOff t))
    | some w =>
      if descDir t then
        if w.fits wdata then .ok (decodeWrite w (descOff t) wdata) else .error .dataAboveWidth
      else .ok (decodeRead w (descOff t))

/-- The descriptor of the four fields (R80), `rsv` being 0. -/
def packDesc (dir : Bool) (sz : BitVec 2) (off : Offset) : BitVec 16 := 0#1 ++ BitVec.ofBool dir ++ sz ++ off

/-- The descriptor of an instruction (R83, R87). -/
def encodeDesc : Instr → BitVec 16
  | .rdCmd w => packDesc false w.code Reg.command.offset
  | .wrCmd w _ => packDesc true w.code Reg.command.offset
  | .rdSrcLo w => packDesc false w.code Reg.srcLow.offset
  | .wrSrcLo w _ => packDesc true w.code Reg.srcLow.offset
  | .rdSrcHi w => packDesc false w.code Reg.srcHigh.offset
  | .wrSrcHi w _ => packDesc true w.code Reg.srcHigh.offset
  | .rdDstLo w => packDesc false w.code Reg.dstLow.offset
  | .wrDstLo w _ => packDesc true w.code Reg.dstLow.offset
  | .rdDstHi w => packDesc false w.code Reg.dstHigh.offset
  | .wrDstHi w _ => packDesc true w.code Reg.dstHigh.offset
  | .rdSize w => packDesc false w.code Reg.size.offset
  | .wrSize w _ => packDesc true w.code Reg.size.offset
  | .rdStatus w => packDesc false w.code Reg.status.offset
  | .wrStatus w _ => packDesc true w.code Reg.status.offset
  | .rdScratch w => packDesc false w.code Reg.scratch.offset
  | .wrScratch w _ => packDesc true w.code Reg.scratch.offset
  | .rdWide off => packDesc false 3 off
  | .wrWide off _ => packDesc true 3 off
  | .rdUnmapped w off => packDesc false w.code off
  | .wrUnmapped w off _ => packDesc true w.code off

/-- The data operand of an instruction: a write has one, a read has none (R80). -/
def encodeData : Instr → Option Data
  | .rdCmd _ => none
  | .wrCmd _ d => some d
  | .rdSrcLo _ => none
  | .wrSrcLo _ d => some d
  | .rdSrcHi _ => none
  | .wrSrcHi _ d => some d
  | .rdDstLo _ => none
  | .wrDstLo _ d => some d
  | .rdDstHi _ => none
  | .wrDstHi _ d => some d
  | .rdSize _ => none
  | .wrSize _ d => some d
  | .rdStatus _ => none
  | .wrStatus _ d => some d
  | .rdScratch _ => none
  | .wrScratch _ d => some d
  | .rdWide _ => none
  | .wrWide _ d => some d
  | .rdUnmapped _ _ => none
  | .wrUnmapped _ _ d => some d

/-- Byte `k` of a transaction value is bits `[8k+7:8k]` (20_memory.md R54, D5). -/
def laneByte (v : Data) (k : Nat) : Byte := v.extractLsb' (8 * k) 8

/-- The two bytes of a descriptor, the low one first. DESIGN CHOICE (log entry 3): the spec lays a transaction out as no bytes;
the model stores the descriptor and then the data operand, each in the little-endian lanes of R54. -/
def descBytes (t : BitVec 16) : List Byte := [t.extractLsb' 0 8, t.extractLsb' 8 8]

/-- The eight bytes of a data operand, lane 0 first (R54). -/
def dataBytes (v : Data) : List Byte :=
  [laneByte v 0, laneByte v 1, laneByte v 2, laneByte v 3, laneByte v 4, laneByte v 5, laneByte v 6, laneByte v 7]

/-- The data operand of an optional one as bytes. -/
def operandBytes : Option Data → List Byte
  | none => []
  | some v => dataBytes v

/-- The bytes of an instruction: its descriptor and, for a write, its data operand (R85). -/
def encode (i : Instr) : List Byte := descBytes (encodeDesc i) ++ operandBytes (encodeData i)

/-- The descriptor two bytes spell. -/
def descOfBytes (b0 b1 : Byte) : BitVec 16 := b1 ++ b0

/-- The data operand eight lanes spell (R54). -/
def dataOfBytes (d0 d1 d2 d3 d4 d5 d6 d7 : Byte) : Data := d7 ++ d6 ++ d5 ++ d4 ++ d3 ++ d2 ++ d1 ++ d0

/-- The decoded instruction with the bytes that follow it, or why there is none. -/
def withRest (rest : List Byte) : Except Reject Instr → Except Reject (Instr × List Byte)
  | .ok i => .ok (i, rest)
  | .error e => .error e

/-- Decode the bytes after a write's descriptor. -/
def decodeOperand (t : BitVec 16) : List Byte → Except Reject (Instr × List Byte)
  | d0 :: d1 :: d2 :: d3 :: d4 :: d5 :: d6 :: d7 :: rest =>
    withRest rest (decodeTxn t (dataOfBytes d0 d1 d2 d3 d4 d5 d6 d7))
  | _ => .error .truncated

/-- Decode one transaction from bytes, total on any bytes: the instruction and the bytes left. -/
def decode : List Byte → Except Reject (Instr × List Byte)
  | b0 :: b1 :: rest =>
    if descRsv (descOfBytes b0 b1) then .error .reservedBit
    else if descDir (descOfBytes b0 b1) then decodeOperand (descOfBytes b0 b1) rest
    else withRest rest (decodeTxn (descOfBytes b0 b1) 0)
  | _ => .error .truncated

/-- `n` bytes of a number, the low byte first. -/
def natBytes : Nat → Nat → List Byte
  | 0, _ => []
  | n + 1, v => BitVec.ofNat 8 v :: natBytes n (v / 256)

/-- The bytes of an instruction of spec/opcode_table.json whose low `nbits` bits are `w`, every bit above being 0: the longest
instruction is a descriptor and a data operand, 10 bytes. -/
def tableWordBytes (nbits w : Nat) : List Byte := natBytes 10 (w % 2 ^ nbits)

/-- What the decoder reads from an instruction of spec/opcode_table.json whose bits are `w`. -/
def decodeTableWord (nbits w : Nat) : Option Instr :=
  match decode (tableWordBytes nbits w) with
  | .ok (i, _) => some i
  | .error _ => none

/-- The width code of an access of so many bytes (R80); none for a width the bus does not deliver (R86, D2). -/
def szOfBytes (width : Nat) : Option (BitVec 2) :=
  if width = 1 then some 0
  else if width = 2 then some 1
  else if width = 4 then some 2
  else if width = 8 then some 3
  else none

/-- The bus delivers an access given by the source's own fields (R80, R81, R86): the width and the offset are checked, the
descriptor is packed, and the bus zero-extends the `width` bytes of the value it carries. DEDUCED (log entry 13). -/
def packAccess (offset width : Nat) (write : Bool) (value : Data) : Except Reject (BitVec 16 × Data) :=
  match szOfBytes width with
  | none => .error .badWidth
  | some sz =>
    if offset < 4096 then
      .ok (packDesc write sz (BitVec.ofNat 12 offset), (value.setWidth (8 * width)).setWidth 64)
    else .error .outsideWindow

/-- One row of the opcode map (R83): `t` is of this kind when `t &&& mask = bits` and no row of a lower priority number fits. -/
structure OpcodeRow where
  mnemonic : String
  mask : BitVec 16
  bits : BitVec 16
  priority : Nat
deriving DecidableEq, Repr

/-- The wide rows of R83, priority 1. -/
def wideRows : List OpcodeRow :=
  [⟨"RD.WIDE", 0xF000, 0x3000, 1⟩, ⟨"WR.WIDE", 0xF000, 0x7000, 1⟩]

/-- The register rows of R83, priority 2. -/
def registerRows : List OpcodeRow :=
  [⟨"RD.CMD", 0xCFFF, 0x0000, 2⟩, ⟨"WR.CMD", 0xCFFF, 0x4000, 2⟩,
   ⟨"RD.SRC_LO", 0xCFFF, 0x0004, 2⟩, ⟨"WR.SRC_LO", 0xCFFF, 0x4004, 2⟩,
   ⟨"RD.SRC_HI", 0xCFFF, 0x0008, 2⟩, ⟨"WR.SRC_HI", 0xCFFF, 0x4008, 2⟩,
   ⟨"RD.DST_LO", 0xCFFF, 0x000C, 2⟩, ⟨"WR.DST_LO", 0xCFFF, 0x400C, 2⟩,
   ⟨"RD.DST_HI", 0xCFFF, 0x0010, 2⟩, ⟨"WR.DST_HI", 0xCFFF, 0x4010, 2⟩,
   ⟨"RD.SIZE", 0xCFFF, 0x0014, 2⟩, ⟨"WR.SIZE", 0xCFFF, 0x4014, 2⟩,
   ⟨"RD.STATUS", 0xCFFF, 0x0018, 2⟩, ⟨"WR.STATUS", 0xCFFF, 0x4018, 2⟩,
   ⟨"RD.SCRATCH", 0xCFFF, 0x001C, 2⟩, ⟨"WR.SCRATCH", 0xCFFF, 0x401C, 2⟩]

/-- The unmapped rows of R83, priority 3. -/
def unmappedRows : List OpcodeRow :=
  [⟨"RD.UNMAPPED", 0xC000, 0x0000, 3⟩, ⟨"WR.UNMAPPED", 0xC000, 0x4000, 3⟩]

/-- The opcode map of R83 in the order of its priorities. -/
def opcodeRows : List OpcodeRow := wideRows ++ registerRows ++ unmappedRows

/-- The row of R83 that a descriptor selects: the first in priority order whose masked bits agree. -/
def opcodeRowOf (t : BitVec 16) : Option OpcodeRow := opcodeRows.find? (fun r => t &&& r.mask == r.bits)

/-! The syntax of R87 and the pseudo-transactions of R88. -/

/-- `rd8 OFF`, `rd16 OFF`, `rd32 OFF` (R87). -/
def rdTxn (w : Width) (off : Offset) : Instr := decodeRead w off

/-- `wr8 OFF, VAL`, `wr16 OFF, VAL`, `wr32 OFF, VAL`, for a value that fits (R87). -/
def wrTxn (w : Width) (off : Offset) (val : Word) : Instr := decodeWrite w off (val.setWidth 64)

/-- `rd64 OFF` (R87). -/
def rd64Txn (off : Offset) : Instr := .rdWide off

/-- `wr64 OFF, VAL` (R87). -/
def wr64Txn (off : Offset) (val : Data) : Instr := .wrWide off val

/-- `rdN NAME`: a register's name stands for its offset (R87). -/
def rdAt (w : Width) (r : Reg) : Instr := readOf w r

/-- `wrN NAME, VAL`: a register's name stands for its offset (R87). -/
def wrAt (w : Width) (r : Reg) (val : Word) : Instr := writeOf w (val.setWidth 64) r

/-- `set_src S` (R88). -/
def setSrc (src : Addr) : List Instr :=
  [wrAt .b4 .srcLow (src.extractLsb' 0 32), wrAt .b4 .srcHigh (src.extractLsb' 32 32)]

/-- `set_dst D` (R88). -/
def setDst (dst : Addr) : List Instr :=
  [wrAt .b4 .dstLow (dst.extractLsb' 0 32), wrAt .b4 .dstHigh (dst.extractLsb' 32 32)]

/-- Command bit names (R87). -/
def cmdDmaRead : Word := 0x1
def cmdDmaWrite : Word := 0x2

/-- `dma_read S, D, N` (R88): external address S into local-buffer offset D, N bytes. -/
def dmaReadTxns (src dst : Addr) (n : Word) : List Instr :=
  setSrc src ++ setDst dst ++ [wrAt .b4 .size n, wrAt .b4 .command cmdDmaRead]

/-- `dma_write S, D, N` (R88): local-buffer offset S to external address D, N bytes. -/
def dmaWriteTxns (src dst : Addr) (n : Word) : List Instr :=
  setSrc src ++ setDst dst ++ [wrAt .b4 .size n, wrAt .b4 .command cmdDmaWrite]

/-- `ack` (R88). -/
def ackTxns : List Instr := [rdAt .b4 .status]

end Sys2Proof
end

