-- ==== Sys2Proof/Machine/State.lean ====
section
/-! DEFINITION. The state of the block (10_state.md R20), the host's moves and the block's outputs as plain data, the reasons a
step can stop, and the state after reset. -/

namespace Sys2Proof.Machine

open Sys2Proof

/-- The two message kinds of an event `Msg(kind, v)` (00_scope.md R14). -/
inductive MsgKind where
  | single
  | multi
deriving DecidableEq, Repr, Inhabited

/-- The external events of a step, recorded in order (00_scope.md R14). -/
inductive Event where
  /-- `ExtRead(addr, n, result)`; an `ok` result holds exactly `n` bytes -/
  | extRead (addr : Addr) (n : Word) (result : ExtAnswer)
  /-- `ExtWrite(addr, n, bytes, result)`; `ok` says whether the result was `Ok` -/
  | extWrite (addr : Addr) (n : Word) (bytes : List Byte) (ok : Bool)
  /-- `Line(b)` -/
  | line (level : Bool)
  /-- `Msg(kind, v)`, with the vectors 0 and 1 (R11) -/
  | msg (kind : MsgKind) (vector : Fin 2)
deriving DecidableEq, Repr, Inhabited

/-- What the host may do next (60_exceptions.md R210). -/
inductive HostMove where
  /-- issue a transaction as its descriptor and data operand (30_encoding.md R80) -/
  | transaction (desc : BitVec 16) (wdata : Data)
  /-- issue an access by the source's own fields, which the bus packs or refuses (R81, R86) -/
  | access (offset width : Nat) (write : Bool) (value : Data)
  /-- change the negotiated interrupt mode (42_interrupt_dispatcher.md R170) -/
  | setMode (m : Mode)
  /-- instantiate and realize the device again (70_reset_and_hazards.md R230) -/
  | reset
deriving DecidableEq, Repr, Inhabited

/-- What a read gives: the 64-bit `rdata` of the block, and what the bus delivers of it (40_register_file.md R112). -/
structure Response where
  rdata : Data
  delivered : Data
deriving DecidableEq, Repr, Inhabited

/-- The local buffer's written bytes: (offset, byte) pairs, offsets strictly rising. An offset that is not listed holds no
written byte; the block then reads `Config.bufInit` there (log entry 5). -/
abbrev Memory := List Host.Cell

/-- The state of one block instance, with the host's inputs and the outputs as data. -/
structure State where
  /-- R21 -/
  command : Word
  /-- R22 -/
  dmaSrcLow : Word
  /-- R23 -/
  dmaSrcHigh : Word
  /-- R24 -/
  dmaDstLow : Word
  /-- R25 -/
  dmaDstHigh : Word
  /-- R26 -/
  dmaSize : Word
  /-- R27 -/
  interruptStatus : Word
  /-- R28 -/
  scratch : Word
  /-- R29 -/
  localBuffer : Memory
  /-- R30 -/
  vectorTurnCounter : BitVec 1
  /-- R32 -/
  intxLevel : Bool
  /-- R33, R204 -/
  faulted : Bool
  /-- R33, R86 -/
  refused : Bool
  /-- what `Mode()` answers: the host's, not the block's (R31) -/
  mode : Mode
  /-- the host's answers to the next external-memory calls, in order (R57, log entry 7) -/
  extAnswers : List ExtAnswer
  /-- the host's next moves, in order (R10, log entry 1) -/
  pending : List HostMove
  /-- the read data of the latest transaction, none after a write (R14, log entry 18) -/
  response : Option Response
  /-- the external events so far, in order (R14, log entry 17) -/
  events : List Event
  /-- the index of the next free value (log entry 9) -/
  draws : Nat
deriving DecidableEq, Repr, Inhabited

/-- Why a step ends in a fault. -/
inductive Fault where
  /-- `BufferOverrun(dir, loc, n)` with the state it leaves, `faulted` set (41_dma_engine.md R148, 60_exceptions.md R204). Raised by
  the DMA Engine within a command write. Safe: the source leaves the behaviour undefined. -/
  | bufferOverrun (dir : Direction) (loc : Addr) (n : Word) (after : State)
  /-- A step from a state with `faulted` set is not taken (10_state.md R33). Raised by `step`. Safe: nothing is claimed of it. -/
  | noStepFaulted
deriving DecidableEq, Repr

/-- Why a step is refused. -/
inductive Refusal where
  /-- An instruction with no meaning yet, raised by `exec`. Safe. No arm of this model answers it. -/
  | notModelled (mnemonic : String)
  /-- A transaction the bus cannot deliver, with the state it leaves, `refused` set (30_encoding.md R86). Raised by `step`. Safe. -/
  | undeliverable (why : Reject) (after : State)
  /-- A step from a state with `refused` set is not taken (10_state.md R33). Raised by `step`. Safe. -/
  | noStepRefused
deriving DecidableEq, Repr

/-- The state after reset for given `DESC_RESET` and initial interrupt mode (70_reset_and_hazards.md R230, R231). `BUF_INIT` is what
the empty local buffer reads as. -/
def State.resetWith (d : DescReset) (m : Mode) : State where
  command := 0
  dmaSrcLow := d.srcLow
  dmaSrcHigh := d.srcHigh
  dmaDstLow := d.dstLow
  dmaDstHigh := d.dstHigh
  dmaSize := d.size
  interruptStatus := 0
  scratch := 11
  localBuffer := []
  vectorTurnCounter := 0
  intxLevel := false
  faulted := false
  refused := false
  mode := m
  extAnswers := []
  pending := []
  response := none
  events := []
  draws := 0

/-- The state after reset, with the model's `DESC_RESET` and initial mode (log entries 4 and 10). -/
def State.reset : State := State.resetWith Config.descReset Config.initialMode

end Sys2Proof.Machine
end

