-- ==== Sys2Proof/Machine/Ops.lean ====
section
/-! DEFINITION. The named operations over registers, the local buffer, the external ports and the host's moves. The block has no
trap mechanism (60_exceptions.md R200, R209): the one operation that leaves the normal path is `raiseOverrun`. -/

namespace Sys2Proof.Machine

open Sys2Proof

/-- The outcome of a step (00_scope.md R14). -/
abbrev Result := Host.Outcome State Fault Refusal

/-- Go on with `f` from a next state; a fault or a refusal ends the step (60_exceptions.md R204). -/
def andThen (o : Result) (f : State → Result) : Result :=
  match o with
  | .next s => f s
  | .fault r => .fault r
  | .refused r => .refused r

/-! ### Registers -/

/-- `x[name]` (00_scope.md R13). -/
def State.reg (s : State) : Reg → Word
  | .command => s.command
  | .srcLow => s.dmaSrcLow
  | .srcHigh => s.dmaSrcHigh
  | .dstLow => s.dmaDstLow
  | .dstHigh => s.dmaDstHigh
  | .size => s.dmaSize
  | .status => s.interruptStatus
  | .scratch => s.scratch

/-- `x[name] <- v` (00_scope.md R13). -/
def State.setReg (s : State) (r : Reg) (v : Word) : State :=
  match r with
  | .command => { s with command := v }
  | .srcLow => { s with dmaSrcLow := v }
  | .srcHigh => { s with dmaSrcHigh := v }
  | .dstLow => { s with dmaDstLow := v }
  | .dstHigh => { s with dmaDstHigh := v }
  | .size => { s with dmaSize := v }
  | .status => { s with interruptStatus := v }
  | .scratch => { s with scratch := v }

/-! ### The local buffer -/

/-- The written byte at an offset, if there is one. -/
def Memory.read : Memory → Nat → Option Byte
  | [], _ => none
  | (k, v) :: rest, a => if k = a then some v else Memory.read rest a

/-- Write one byte, keeping the offsets strictly rising. -/
def Memory.write : Memory → Nat → Byte → Memory
  | [], a, b => [(a, b)]
  | (k, v) :: rest, a, b =>
    if a < k then (a, b) :: (k, v) :: rest
    else if a = k then (a, b) :: rest
    else (k, v) :: Memory.write rest a b

/-- Write bytes at consecutive offsets, the first at `a`. -/
def Memory.writeBytes (m : Memory) (a : Nat) : List Byte → Memory
  | [] => m
  | b :: rest => Memory.writeBytes (Memory.write m a b) (a + 1) rest

/-- Every offset of the list is above `lo` and below the buffer's end, and the offsets rise strictly. -/
def Memory.sortedFrom (lo : Nat) : Memory → Bool
  | [] => true
  | (k, _) :: rest => decide (lo ≤ k) && decide (k < bufSize) && Memory.sortedFrom (k + 1) rest

/-- The canonical form: offsets strictly rising, all of them offsets of the buffer (10_state.md R29). -/
def Memory.wf (m : Memory) : Bool := Memory.sortedFrom 0 m

/-- `buf[i]` (00_scope.md R13): the written byte, and `BUF_INIT` where nothing was written since reset (10_state.md R29). -/
def State.bufByte (s : State) (i : Nat) : Byte := (Memory.read s.localBuffer i).getD (Config.bufInit i)

/-- `buf[loc .. loc+n-1]` in order (41_dma_engine.md R154). -/
def State.bufBytes (s : State) (loc n : Nat) : List Byte := (List.range n).map (fun i => s.bufByte (loc + i))

/-- `buf[loc + i] <- bytes[i]` for every byte (41_dma_engine.md R150). -/
def State.copyIn (s : State) (loc : Nat) (bytes : List Byte) : State :=
  { s with localBuffer := Memory.writeBytes s.localBuffer loc bytes }

/-! ### Outputs -/

/-- Record an external event (00_scope.md R14). -/
def State.emit (s : State) (e : Event) : State := { s with events := s.events ++ [e] }

/-- `SetLine(b); intx_level <- b` (42_interrupt_dispatcher.md R175, R177). -/
def State.setLine (s : State) (level : Bool) : State := State.emit { s with intxLevel := level } (.line level)

/-- The data a read returns. -/
def State.respond (s : State) (r : Response) : State := { s with response := some r }

/-- A write returns no data. -/
def State.noResponse (s : State) : State := { s with response := none }

/-! ### The external-memory port -/

/-- The answer to the next external call: the host's where it gave one, otherwise free (20_memory.md R57, D15). -/
def State.nextAnswer (s : State) : ExtAnswer :=
  match s.extAnswers with
  | [] => Config.extAnswer s.draws
  | a :: _ => a

/-- Exactly `n` bytes of an `Ok` answer; a byte the answer does not give is free. -/
def fillBytes (k n : Nat) (bytes : List Byte) : List Byte :=
  (List.range n).map (fun i => bytes.getD i (Config.extByte k i))

/-- The result of `MemRead(_, n)`: `Ok` with exactly `n` bytes, or `Fail` (20_memory.md R57). -/
def State.readResult (s : State) (n : Word) : ExtAnswer :=
  match s.nextAnswer with
  | .ok bytes => .ok (fillBytes s.draws n.toNat bytes)
  | .fail => .fail

/-- The result of `MemWrite`: whether it is `Ok` (20_memory.md R57). -/
def State.writeResult (s : State) : Bool :=
  match s.nextAnswer with
  | .ok _ => true
  | .fail => false

/-- The next call has another answer and another index of free values. -/
def State.useAnswer (s : State) : State := { s with extAnswers := s.extAnswers.tail, draws := s.draws + 1 }

/-- The next free value has another index. -/
def State.useDraw (s : State) : State := { s with draws := s.draws + 1 }

/-- `MemRead(addr, n)`, recorded as `ExtRead(addr, n, r)`: the state after the call (41_dma_engine.md R149). -/
def State.memRead (s : State) (addr : Addr) (n : Word) : State :=
  s.useAnswer.emit (.extRead addr n (s.readResult n))

/-- `MemWrite(addr, n, bytes)`, recorded as `ExtWrite(addr, n, bytes, r)`: the state after the call (41_dma_engine.md R153). -/
def State.memWrite (s : State) (addr : Addr) (n : Word) (bytes : List Byte) : State :=
  s.useAnswer.emit (.extWrite addr n bytes s.writeResult)

/-! ### Stops -/

/-- `raise BufferOverrun(dir, loc, n)`: what the step did before stands, and `faulted` is set (60_exceptions.md R204). -/
def raiseOverrun (dir : Direction) (loc : Addr) (n : Word) (s : State) : Result :=
  .fault (.bufferOverrun dir loc n { s with faulted := true })

/-- A refusal sets `refused` and "changes no other state and produces no event" (30_encoding.md R86). -/
def refuse (why : Reject) (s : State) : Result := .refused (.undeliverable why { s with refused := true })

/-! ### The host's moves -/

/-- The host's next move is taken from the list. -/
def State.dropMove (s : State) : State := { s with pending := s.pending.tail }

/-- The host changes the interrupt mode between transactions (42_interrupt_dispatcher.md R170). -/
def State.changeMode (s : State) (m : Mode) : State := { s with mode := m }

/-- The host instantiates the device again: every piece of the block's state is at its reset value (70_reset_and_hazards.md R230);
the host's inputs and what the run has recorded so far stay. DEDUCED (log entry 19). -/
def State.restart (s : State) : State :=
  { State.resetWith Config.descReset s.mode with
    extAnswers := s.extAnswers, pending := s.pending, events := s.events, draws := s.draws }

/-- The host queues an instruction as its descriptor and data operand. -/
def moveOf (i : Instr) : HostMove := .transaction (encodeDesc i) ((encodeData i).getD 0)

/-- The host queues instructions after what it has queued already (30_encoding.md R88: "in order"). -/
def State.issue (s : State) (is : List Instr) : State := { s with pending := s.pending ++ is.map moveOf }

end Sys2Proof.Machine
end

