-- ==== Sys2Proof/Machine/Flags.lean ====
section
/-! DEFINITION. The block has no flags (10_state.md R35); its one status indication is `interrupt_status` (R27). This file holds
what sets it and the trigger bits of `command` (R21). -/

namespace Sys2Proof.Machine

open Sys2Proof

/-- The direction code (41_dma_engine.md R141). -/
def Direction.code : Direction → Word
  | .read => 1
  | .write => 2

/-- `x[interrupt_status] <- dir` on a successful transfer (41_dma_engine.md R151, R155). -/
def State.setStatus (s : State) (dir : Direction) : State := s.setReg .status (Direction.code dir)

/-- The bit `DMA_READ` of a command value (10_state.md R21). -/
def readBit (v : Word) : Bool := v.getLsbD 0

/-- The bit `DMA_WRITE` of a command value (10_state.md R21). -/
def writeBit (v : Word) : Bool := v.getLsbD 1

end Sys2Proof.Machine
end

