-- ==== Sys2Proof/Machine/Operands.lean ====
section
/-! DEFINITION. The data path of a register access (40_register_file.md R112, R113) and the operands of a transfer
(41_dma_engine.md R142 to R144). -/

namespace Sys2Proof.Machine

open Sys2Proof

/-- `zext_64(v)` (00_scope.md R12). -/
def zext64 (v : Word) : Data := v.setWidth 64

/-- What the bus keeps of `rdata` in an access of `bytes` bytes: bits `[8*bytes-1:0]` (R112). -/
def deliver (bytes : Nat) (rdata : Data) : Data := (rdata.setWidth (8 * bytes)).setWidth 64

/-- The response of a read of `bytes` bytes. -/
def responseOf (bytes : Nat) (rdata : Data) : Response := { rdata := rdata, delivered := deliver bytes rdata }

/-- An honoured read of a register returns its value zero-extended (R112). -/
def readReg (r : Reg) (w : Width) (s : State) : Result := .next (s.respond (responseOf w.bytes (zext64 (s.reg r))))

/-- `v = wdata[31:0]` (R113). -/
def writeValue (wdata : Data) : Word := wdata.setWidth 32

/-- An honoured write replaces the whole register; there is no byte-lane merge (R113). The data alone decides the new value,
whatever the width. -/
def writeReg (r : Reg) (wdata : Data) (s : State) : Result := .next ((s.setReg r (writeValue wdata)).noResponse)

/-- The all-ones value a rejected or unmapped read returns (R120, R122). -/
def sentinel : Data := BitVec.allOnes 64

/-- A read that returns the sentinel and changes nothing (R120, R122). -/
def readSentinel (bytes : Nat) (s : State) : Result := .next (s.respond (responseOf bytes sentinel))

/-- A write that is discarded (R121, R123). -/
def discardWrite (s : State) : Result := .next s.noResponse

/-- `src64` (41_dma_engine.md R142). -/
def State.src64 (s : State) : Addr := s.reg .srcHigh ++ s.reg .srcLow

/-- `dst64` (41_dma_engine.md R142). -/
def State.dst64 (s : State) : Addr := s.reg .dstHigh ++ s.reg .dstLow

/-- The external address of a transfer (41_dma_engine.md R144). -/
def State.extAddr (s : State) : Direction → Addr
  | .read => s.src64
  | .write => s.dst64

/-- The local-buffer offset of a transfer (41_dma_engine.md R144). -/
def State.localOffset (s : State) : Direction → Addr
  | .read => s.dst64
  | .write => s.src64

/-- `n` (41_dma_engine.md R143). -/
def State.transferSize (s : State) : Word := s.reg .size

/-- `loc + n > 4096`, without wrap (41_dma_engine.md R148). -/
def overruns (loc : Addr) (n : Word) : Bool := decide (loc.toNat + n.toNat > bufSize)

end Sys2Proof.Machine
end

