-- ==== Sys2Proof/Machine/Interrupt.lean ====
section
/-! DEFINITION. The Interrupt Dispatcher (42_interrupt_dispatcher.md). -/

namespace Sys2Proof.Machine

open Sys2Proof

/-- The vector of a multi-vector completion: `v <- (c = 0) ? 1 : 0` (R173). -/
def turnVector (c : BitVec 1) : Fin 2 := if c = 0 then 1 else 0

/-- `DispatchMulti()` (R173). -/
def dispatchMulti (s : State) : State :=
  State.emit { s with vectorTurnCounter := s.vectorTurnCounter ^^^ 1 } (.msg .multi (turnVector s.vectorTurnCounter))

/-- `NotifySingle(0)` (R174). -/
def notifySingle (s : State) : State := s.emit (.msg .single 0)

/-- `Dispatch()` (R171). -/
def dispatch (s : State) : State :=
  match s.mode with
  | .multiVector => dispatchMulti s
  | .singleVector => notifySingle s
  | .legacy => s.setLine true

/-- The legacy clear within a status read (R177). -/
def legacyClear (s : State) : State :=
  match s.mode with
  | .legacy => s.setLine false
  | .singleVector => s
  | .multiVector => s

end Sys2Proof.Machine
end

