-- ==== Sys2Proof/Machine/Dma.lean ====
section
/-! DEFINITION. The DMA Engine (41_dma_engine.md): the operation `DMA(dir)` of R146. -/

namespace Sys2Proof.Machine

open Sys2Proof

/-- A transfer completes: the status, then the dispatch (R151, R155, R179). -/
def complete (dir : Direction) (s : State) : State := dispatch (s.setStatus dir)

/-- `DMAFail()` in the read direction: every byte of the destination range is a draw (R152, R157). -/
def failRead (loc : Addr) (n : Word) (s : State) : State :=
  (s.copyIn loc.toNat ((List.range n.toNat).map (Config.failedReadByte s.draws))).useDraw

/-- The read direction after the bound check (R149 to R152). -/
def dmaRead (ext loc : Addr) (n : Word) (s : State) : State :=
  match s.readResult n with
  | .ok bytes => complete .read ((s.memRead ext n).copyIn loc.toNat bytes)
  | .fail => failRead loc n (s.memRead ext n)

/-- The write direction after the bound check (R153 to R155, R152). -/
def dmaWrite (ext loc : Addr) (n : Word) (s : State) : State :=
  match s.writeResult with
  | true => complete .write (s.memWrite ext n (s.bufBytes loc.toNat n.toNat))
  | false => s.memWrite ext n (s.bufBytes loc.toNat n.toNat)

/-- The transfer after the bound check, by direction. -/
def transfer (dir : Direction) (ext loc : Addr) (n : Word) (s : State) : State :=
  match dir with
  | .read => dmaRead ext loc n s
  | .write => dmaWrite ext loc n s

/-- `DMA(dir)` (R146). -/
def dma (dir : Direction) (s : State) : Result :=
  if overruns (s.localOffset dir) s.transferSize then raiseOverrun dir (s.localOffset dir) s.transferSize s
  else .next (transfer dir (s.extAddr dir) (s.localOffset dir) s.transferSize s)

/-- The transfers of a command value with both trigger bits set (40_register_file.md R101, D12). -/
def dualTransfer (dt : DualTrigger) (s : State) : Result :=
  match dt with
  | .readOnly => dma .read s
  | .writeOnly => dma .write s
  | .readThenWrite => andThen (dma .read s) (dma .write)
  | .writeThenRead => andThen (dma .write s) (dma .read)

/-- The transfers a command value triggers (40_register_file.md R101). -/
def trigger (dt : DualTrigger) (v : Word) (s : State) : Result :=
  match readBit v, writeBit v with
  | true, false => dma .read s
  | false, true => dma .write s
  | true, true => dualTransfer dt s
  | false, false => .next s

end Sys2Proof.Machine
end

