-- ==== Sys2Proof/Machine/Command.lean ====
section
/-! DEFINITION. The meanings of the command register's transactions (40_register_file.md R100, R101). -/

namespace Sys2Proof.Machine

open Sys2Proof

/-- RD.CMD, R100. -/
def execRdCmd (w : Width) (s : State) : Result := readReg .command w s

/-- The end of a command write: "the command register is then reset to 0 regardless of outcome" (R101). -/
def clearCommand (s : State) : Result := .next (s.setReg .command 0)

/-- A command write for a given `DUAL_TRIGGER` (R101, D12). -/
def commandWrite (dt : DualTrigger) (v : Word) (s : State) : Result :=
  andThen (trigger dt v ((s.setReg .command v).noResponse)) clearCommand

/-- WR.CMD, R101. The width plays no part: `v` is the data's low 32 bits (R113). -/
def execWrCmd (_w : Width) (wdata : Data) (s : State) : Result := commandWrite Config.dualTrigger (writeValue wdata) s

end Sys2Proof.Machine
end

