-- ==== Sys2Proof/Machine/Registers.lean ====
section
/-! DEFINITION. The meanings of the descriptor, status and scratch registers' transactions (40_register_file.md R102 to R117). A
write's new value is its data's low 32 bits whatever the width (R113), so the width of a write is not consulted. -/

namespace Sys2Proof.Machine

open Sys2Proof

/-- RD.SRC_LO, R102. -/
def execRdSrcLo (w : Width) (s : State) : Result := readReg .srcLow w s

/-- WR.SRC_LO, R103. -/
def execWrSrcLo (_w : Width) (wdata : Data) (s : State) : Result := writeReg .srcLow wdata s

/-- RD.SRC_HI, R104. -/
def execRdSrcHi (w : Width) (s : State) : Result := readReg .srcHigh w s

/-- WR.SRC_HI, R105. -/
def execWrSrcHi (_w : Width) (wdata : Data) (s : State) : Result := writeReg .srcHigh wdata s

/-- RD.DST_LO, R106. -/
def execRdDstLo (w : Width) (s : State) : Result := readReg .dstLow w s

/-- WR.DST_LO, R107. -/
def execWrDstLo (_w : Width) (wdata : Data) (s : State) : Result := writeReg .dstLow wdata s

/-- RD.DST_HI, R108. -/
def execRdDstHi (w : Width) (s : State) : Result := readReg .dstHigh w s

/-- WR.DST_HI, R109. -/
def execWrDstHi (_w : Width) (wdata : Data) (s : State) : Result := writeReg .dstHigh wdata s

/-- RD.SIZE, R110. -/
def execRdSize (w : Width) (s : State) : Result := readReg .size w s

/-- WR.SIZE, R111. -/
def execWrSize (_w : Width) (wdata : Data) (s : State) : Result := writeReg .size wdata s

/-- RD.STATUS, R114: read, clear, the legacy clear (R177), then the response. -/
def execRdStatus (w : Width) (s : State) : Result :=
  .next ((legacyClear (s.setReg .status 0)).respond (responseOf w.bytes (zext64 (s.reg .status))))

/-- WR.STATUS, R115. -/
def execWrStatus (_w : Width) (wdata : Data) (s : State) : Result := writeReg .status wdata s

/-- RD.SCRATCH, R116. -/
def execRdScratch (w : Width) (s : State) : Result := readReg .scratch w s

/-- WR.SCRATCH, R117. -/
def execWrScratch (_w : Width) (wdata : Data) (s : State) : Result := writeReg .scratch wdata s

end Sys2Proof.Machine
end

