-- ==== Sys2Proof/Machine/Rejected.lean ====
section
/-! DEFINITION. The meanings of the rejected and unmapped accesses (40_register_file.md R120 to R123). -/

namespace Sys2Proof.Machine

open Sys2Proof

/-- RD.WIDE, R120: the sentinel, eight bytes of it, whatever the offset. -/
def execRdWide (_off : Offset) (s : State) : Result := readSentinel 8 s

/-- WR.WIDE, R121: discarded, whatever the offset and the data. -/
def execWrWide (_off : Offset) (_wdata : Data) (s : State) : Result := discardWrite s

/-- RD.UNMAPPED, R122. -/
def execRdUnmapped (w : Width) (_off : Offset) (s : State) : Result := readSentinel w.bytes s

/-- WR.UNMAPPED, R123. -/
def execWrUnmapped (_w : Width) (_off : Offset) (_wdata : Data) (s : State) : Result := discardWrite s

end Sys2Proof.Machine
end

