-- ==== Sys2Proof/Machine/Dispatch.lean ====
section
/-! DEFINITION. One arm for each transaction kind (40_register_file.md R118: "run the rule of kind k"). -/

namespace Sys2Proof.Machine

open Sys2Proof

def exec (i : Instr) (s : State) : Host.Outcome State Fault Refusal :=
  match i with
  | .rdCmd w => Sys2Proof.Machine.execRdCmd w s
  | .wrCmd w wdata => Sys2Proof.Machine.execWrCmd w wdata s
  | .rdSrcLo w => Sys2Proof.Machine.execRdSrcLo w s
  | .wrSrcLo w wdata => Sys2Proof.Machine.execWrSrcLo w wdata s
  | .rdSrcHi w => Sys2Proof.Machine.execRdSrcHi w s
  | .wrSrcHi w wdata => Sys2Proof.Machine.execWrSrcHi w wdata s
  | .rdDstLo w => Sys2Proof.Machine.execRdDstLo w s
  | .wrDstLo w wdata => Sys2Proof.Machine.execWrDstLo w wdata s
  | .rdDstHi w => Sys2Proof.Machine.execRdDstHi w s
  | .wrDstHi w wdata => Sys2Proof.Machine.execWrDstHi w wdata s
  | .rdSize w => Sys2Proof.Machine.execRdSize w s
  | .wrSize w wdata => Sys2Proof.Machine.execWrSize w wdata s
  | .rdStatus w => Sys2Proof.Machine.execRdStatus w s
  | .wrStatus w wdata => Sys2Proof.Machine.execWrStatus w wdata s
  | .rdScratch w => Sys2Proof.Machine.execRdScratch w s
  | .wrScratch w wdata => Sys2Proof.Machine.execWrScratch w wdata s
  | .rdWide off => Sys2Proof.Machine.execRdWide off s
  | .wrWide off wdata => Sys2Proof.Machine.execWrWide off wdata s
  | .rdUnmapped w off => Sys2Proof.Machine.execRdUnmapped w off s
  | .wrUnmapped w off wdata => Sys2Proof.Machine.execWrUnmapped w off wdata s

end Sys2Proof.Machine
end

