-- ==== Sys2Proof/Machine/Moves.lean ====
section
/-! DEFINITION. Running one move of the host (40_register_file.md R118, 60_exceptions.md R210). -/

namespace Sys2Proof.Machine

open Sys2Proof

/-- Decode a transaction and run the rule of its kind, or refuse it (R118, 30_encoding.md R86). -/
def runTransaction (t : BitVec 16) (wdata : Data) (s : State) : Result :=
  match decodeTxn t wdata with
  | .ok i => exec i s
  | .error e => refuse e s

/-- An access by the source's own fields: packed by the bus, then run; or refused (30_encoding.md R81, R86). -/
def runAccess (offset width : Nat) (write : Bool) (value : Data) (s : State) : Result :=
  match packAccess offset width write value with
  | .ok (t, wdata) => runTransaction t wdata s
  | .error e => refuse e s

/-- One move of the host, on a state from whose list it has been taken. -/
def runMove (m : HostMove) (s : State) : Result :=
  match m with
  | .transaction t wdata => runTransaction t wdata s
  | .access offset width write value => runAccess offset width write value s
  | .setMode m => .next (s.changeMode m)
  | .reset => .next s.restart

/-- The host's next move; with none waiting the block waits (60_exceptions.md R213, 70_reset_and_hazards.md R231; DEDUCED, log
entry 2). -/
def runNext (s : State) : Result :=
  match s.pending with
  | [] => .next s
  | m :: _ => runMove m s.dropMove

/-- The transaction whose table bits are `w`: its descriptor is the low 16 bits, its data operand the bits above, those above
`nbits` being 0. -/
def moveOfTableWord (nbits w : Nat) : HostMove :=
  .transaction (BitVec.ofNat 16 (w % 2 ^ nbits)) (BitVec.ofNat 64 (w % 2 ^ nbits / 2 ^ 16))

end Sys2Proof.Machine
end

