-- ==== Sys2Proof/Machine/Step.lean ====
section
/-! DEFINITION. One step of the machine (40_register_file.md R118). -/

namespace Sys2Proof.Machine

open Sys2Proof

/-- One step: the host's next move. From a state with a mark set none is taken (10_state.md R33). -/
def step (s : State) : Host.Outcome State Fault Refusal :=
  if s.faulted then .fault .noStepFaulted
  else if s.refused then .refused .noStepRefused
  else runNext s

/-- `s` with the transaction whose table bits are `w` as the host's very next move (log entry 1). -/
def State.withFetchWord (s : State) (nbits w : Nat) : State :=
  { s with pending := moveOfTableWord nbits w :: s.pending }

end Sys2Proof.Machine
end

