-- ==== Sys2Proof/Machine/DmaFsm.lean ====
section
/-! DEFINITION. The copy state machine of 41_dma_engine.md R145, which runs to completion inside one step. `dma` is what the
meanings call; an obligation says that this machine computes it. -/

namespace Sys2Proof.Machine

open Sys2Proof

/-- The states of R145, each with the values computed so far. -/
inductive DmaFsm where
  | idle
  | assemble (dir : Direction)
  | check (dir : Direction) (ext loc : Addr) (n : Word)
  | xfer (dir : Direction) (ext loc : Addr) (n : Word)
  /-- after `Ok`, with the bytes to copy in (none in the write direction) -/
  | done (dir : Direction) (loc : Addr) (bytes : List Byte)
  | fail (dir : Direction) (loc : Addr) (n : Word)
  | overrun (dir : Direction) (loc : Addr) (n : Word)
deriving DecidableEq, Repr, Inhabited

/-- The external-memory call of `XFER` and where it goes: `DONE` on `Ok`, `FAIL` on `Fail`. -/
def fsmXfer (dir : Direction) (ext loc : Addr) (n : Word) (s : State) : DmaFsm × State :=
  match dir with
  | .read =>
    match s.readResult n with
    | .ok bytes => (.done .read loc bytes, s.memRead ext n)
    | .fail => (.fail .read loc n, s.memRead ext n)
  | .write =>
    match s.writeResult with
    | true => (.done .write loc [], s.memWrite ext n (s.bufBytes loc.toNat n.toNat))
    | false => (.fail .write loc n, s.memWrite ext n (s.bufBytes loc.toNat n.toNat))

/-- The action of `FAIL`: the draws of R157 in the read direction, nothing in the write direction (R152). -/
def fsmFail (dir : Direction) (loc : Addr) (n : Word) (s : State) : State :=
  match dir with
  | .read => failRead loc n s
  | .write => s

/-- One transition of R145; `OVERRUN` has no next state and raises the fault. -/
def fsmStep (q : DmaFsm) (s : State) : Except Fault (DmaFsm × State) :=
  match q with
  | .idle => .ok (.idle, s)
  | .assemble dir => .ok (.check dir (s.extAddr dir) (s.localOffset dir) s.transferSize, s)
  | .check dir ext loc n => .ok (if overruns loc n then .overrun dir loc n else .xfer dir ext loc n, s)
  | .xfer dir ext loc n => .ok (fsmXfer dir ext loc n s)
  | .done dir loc bytes => .ok (.idle, complete dir (s.copyIn loc.toNat bytes))
  | .fail dir loc n => .ok (.idle, fsmFail dir loc n s)
  | .overrun dir loc n => .error (.bufferOverrun dir loc n { s with faulted := true })

/-- Run the machine for at most so many transitions, until it is `IDLE` again or raises the fault; none where that is too few. -/
def fsmRun : Nat → DmaFsm → State → Option Result
  | 0, .idle, s => some (.next s)
  | 0, _, _ => none
  | k + 1, q, s =>
    match q with
    | .idle => some (.next s)
    | q =>
      match fsmStep q s with
      | .ok (q', s') => fsmRun k q' s'
      | .error f => some (.fault f)

end Sys2Proof.Machine
end

