-- ==== Sys2Proof/Safety.lean ====
section
/-! DEFINITION. What the statements call a good state, a safe transfer and an unchanged component. -/

namespace Sys2Proof.Machine

open Sys2Proof

/-- The invariant between steps: `command` is 0 (10_state.md R36), the local buffer's list has its canonical form and only
offsets of the buffer (R29), and no mark is set (R33). -/
def MachineInv (s : State) : Prop :=
  s.reg .command = 0 ∧ Memory.wf s.localBuffer = true ∧ s.faulted = false ∧ s.refused = false

/-- The transfer's local range lies in the buffer: the caller's duty `loc + n ≤ 4096` (70_reset_and_hazards.md R233, R236). -/
def InBounds (dir : Direction) (s : State) : Prop := (s.localOffset dir).toNat + s.transferSize.toNat ≤ 4096

/-- The transfer's local range holds the offset. -/
def InRange (dir : Direction) (s : State) (a : Nat) : Prop :=
  (s.localOffset dir).toNat ≤ a ∧ a < (s.localOffset dir).toNat + s.transferSize.toNat

/-- The data operand of a command write sets exactly the trigger bit of a direction (10_state.md R21). -/
def Selects (dir : Direction) (wdata : Data) : Prop :=
  match dir with
  | .read => wdata.getLsbD 0 = true ∧ wdata.getLsbD 1 = false
  | .write => wdata.getLsbD 0 = false ∧ wdata.getLsbD 1 = true

/-- The five descriptor registers (10_state.md R22 to R26). -/
def isDescriptor : Reg → Bool
  | .command => false
  | .srcLow => true
  | .srcHigh => true
  | .dstLow => true
  | .dstHigh => true
  | .size => true
  | .status => false
  | .scratch => false

/-- In legacy mode the line and the status agree (42_interrupt_dispatcher.md R178). -/
def LegacyCoherent (s : State) : Prop := s.mode = .legacy ∧ (s.intxLevel = true ↔ s.reg .status ≠ 0)

/-- `interrupt_status` holds 0 or a direction code (10_state.md R27). -/
def StatusCoded (s : State) : Prop := s.reg .status = 0 ∨ s.reg .status = 1 ∨ s.reg .status = 2

/-- The instruction the host's move makes the block run, if it is a transaction the bus can deliver. -/
def moveInstr : HostMove → Option Instr
  | .transaction t wdata =>
    match decodeTxn t wdata with
    | .ok i => some i
    | .error _ => none
  | .access offset width write value =>
    match packAccess offset width write value with
    | .ok (t, wdata) =>
      match decodeTxn t wdata with
      | .ok i => some i
      | .error _ => none
    | .error _ => none
  | .setMode _ => none
  | .reset => none

/-- The write of a register (30_encoding.md R83). -/
def IsWriteOf (r : Reg) (i : Instr) : Prop := ∃ w wdata, i = writeOf w wdata r

/-- An external-memory event (20_memory.md R57). -/
def isExternal : Event → Bool
  | .extRead _ _ _ => true
  | .extWrite _ _ _ _ => true
  | .line _ => false
  | .msg _ _ => false

/-- An interrupt signal (42_interrupt_dispatcher.md R171). -/
def isSignal : Event → Bool
  | .extRead _ _ _ => false
  | .extWrite _ _ _ _ => false
  | .line b => b
  | .msg _ _ => true

/-- An event without the buffer bytes it carries. -/
def hideBytes : Event → Event
  | .extRead a n r => .extRead a n r
  | .extWrite a n _ ok => .extWrite a n [] ok
  | .line b => .line b
  | .msg k v => .msg k v

/-- Two states agree in everything but the local buffer and the bytes that external writes have carried (10_state.md R29). -/
structure AgreeButBuffer (s t : State) : Prop where
  reg : ∀ q, t.reg q = s.reg q
  vectorTurnCounter : t.vectorTurnCounter = s.vectorTurnCounter
  intxLevel : t.intxLevel = s.intxLevel
  faulted : t.faulted = s.faulted
  refused : t.refused = s.refused
  mode : t.mode = s.mode
  extAnswers : t.extAnswers = s.extAnswers
  pending : t.pending = s.pending
  response : t.response = s.response
  events : t.events.map hideBytes = s.events.map hideBytes
  draws : t.draws = s.draws

/-- The direction of an external-memory event. -/
def eventDirection : Event → Option Direction
  | .extRead _ _ _ => some .read
  | .extWrite _ _ _ _ => some .write
  | .line _ => none
  | .msg _ _ => none

/-- The directions of the transfers that a command value with both trigger bits set starts, in order (40_register_file.md R101). -/
def dualDirections : DualTrigger → List Direction
  | .readOnly => [.read]
  | .writeOnly => [.write]
  | .readThenWrite => [.read, .write]
  | .writeThenRead => [.write, .read]

/-- So many completions signalled one after the other. -/
def dispatches : Nat → State → State
  | 0, s => s
  | k + 1, s => dispatches k (dispatch s)

/-- The signal a completion makes in a mode (42_interrupt_dispatcher.md R171). -/
def signalOf (m : Mode) (c : BitVec 1) : Event :=
  match m with
  | .multiVector => .msg .multi (if c = 0 then 1 else 0)
  | .singleVector => .msg .single 0
  | .legacy => .line true

/-- `vector_turn_counter` after a completion in a mode (42_interrupt_dispatcher.md R173). -/
def counterAfter (m : Mode) (c : BitVec 1) : BitVec 1 :=
  match m with
  | .multiVector => c ^^^ 1
  | .singleVector => c
  | .legacy => c

/-- `intx_level` after a completion in a mode (42_interrupt_dispatcher.md R175). -/
def lineAfter (m : Mode) (level : Bool) : Bool :=
  match m with
  | .multiVector => level
  | .singleVector => level
  | .legacy => true

end Sys2Proof.Machine
end

