-- ==== Sys2Proof/Certificates/Slice0/Obligations.lean ====
section
/-! DEFINITION. The statements for the provers. Each docstring names the rules it formalises; where a clause rests on a decision of
the spec's own (D<n> of 92_eei_decisions.md) or on a log entry of the model, the docstring says so. -/

open Sys2Proof Sys2Proof.Machine

/-! ### Reset and the invariant -/

/-- 70_reset_and_hazards.md R230 for every `DESC_RESET` and every initial mode, with `BUF_INIT` free. The counter and the line at 0
are the spec's decisions D18 and D17. -/
def Obligations.ResetLeavesEveryComponentAtItsValue : Prop :=
  ∀ (d : DescReset) (m : Mode),
    (State.resetWith d m).reg .command = 0 ∧ (State.resetWith d m).reg .srcLow = d.srcLow ∧
    (State.resetWith d m).reg .srcHigh = d.srcHigh ∧ (State.resetWith d m).reg .dstLow = d.dstLow ∧
    (State.resetWith d m).reg .dstHigh = d.dstHigh ∧ (State.resetWith d m).reg .size = d.size ∧
    (State.resetWith d m).reg .status = 0 ∧ (State.resetWith d m).reg .scratch = 11 ∧
    (∀ i, i < 4096 → (State.resetWith d m).bufByte i = Config.bufInit i) ∧
    (State.resetWith d m).vectorTurnCounter = 0 ∧ (State.resetWith d m).intxLevel = false ∧
    (State.resetWith d m).faulted = false ∧ (State.resetWith d m).refused = false

/-- R230: instantiating the device again leaves every piece of the block's state at its reset value; what the host holds and what
the run recorded stay (the model's reading, log entry 19). -/
def Obligations.ResetMoveRestoresTheResetState : Prop :=
  ∀ (s : State) (rest : List HostMove), s.faulted = false → s.refused = false → s.pending = .reset :: rest →
    ∃ t, step s = .next t ∧ (∀ q, t.reg q = State.reset.reg q) ∧ (∀ i, t.bufByte i = Config.bufInit i) ∧
      t.vectorTurnCounter = 0 ∧ t.intxLevel = false ∧ t.faulted = false ∧ t.refused = false ∧
      t.mode = s.mode ∧ t.pending = rest ∧ t.events = s.events ∧ t.extAnswers = s.extAnswers ∧ t.draws = s.draws

/-- The invariant holds after reset, for every `DESC_RESET` and mode. -/
def Obligations.ResetMeetsTheInvariant : Prop := ∀ (d : DescReset) (m : Mode), MachineInv (State.resetWith d m)

/-- 10_state.md R36 (a), with the canonical form of the local buffer (R29) and the marks (R33): every step keeps it, from every
state that has it, whatever the host does. -/
def Obligations.EveryStepKeepsTheInvariant : Prop := ∀ (s t : State), MachineInv s → step s = .next t → MachineInv t

/-! ### Decoding and encoding -/

/-- 30_encoding.md R80, R81, R83: no field of an encoding is dropped, for every well-formed transaction and whatever follows it. -/
def Obligations.DecodeOfEncodeIsTheInstruction : Prop :=
  ∀ (i : Instr) (rest : List Byte), i.wf = true → decode (encode i ++ rest) = .ok (i, rest)

/-- R80 to R83, the other direction: what the decoder accepts is a well-formed instruction, and the bytes it read are that
instruction's encoding. -/
def Obligations.DecodedBytesAreTheEncoding : Prop :=
  ∀ (bs rest : List Byte) (i : Instr), decode bs = .ok (i, rest) → i.wf = true ∧ bs = encode i ++ rest

/-- R82 and R83: the decoder gives a descriptor the kind of the first row, in priority order, whose masked bits agree. -/
def Obligations.DecoderFollowsTheOpcodeMap : Prop :=
  ∀ (t : BitVec 16) (wdata : Data) (i : Instr), decodeTxn t wdata = .ok i →
    ∃ r, opcodeRowOf t = some r ∧ r.mnemonic = i.mnemonic

/-- R205: "every descriptor with rsv = 0 decodes to one of the twenty kinds", with a data operand the bus can carry (R81); and a
descriptor with `rsv = 1` is refused by that name (R82, R86; the reserved bit is the spec's decision D7). -/
def Obligations.DescriptorsWithoutTheReservedBitDecode : Prop :=
  (∀ (t : BitVec 16) (wdata : Data), t.getLsbD 15 = false →
    (∀ w, widthOf (descSz t) = some w → descDir t = true → w.fits wdata = true) → ∃ i, decodeTxn t wdata = .ok i) ∧
  (∀ (t : BitVec 16) (wdata : Data), t.getLsbD 15 = true → decodeTxn t wdata = .error .reservedBit)

/-- Words written out from R83 and R87, one and more of every family. -/
def Obligations.SampleDescriptorsDecode : Prop :=
  decodeTxn 0x2000 0 = .ok (.rdCmd .b4) ∧ decodeTxn 0x4000 1 = .ok (.wrCmd .b1 1) ∧
  decodeTxn 0x6004 0x1000 = .ok (.wrSrcLo .b4 0x1000) ∧ decodeTxn 0x1008 0 = .ok (.rdSrcHi .b2) ∧
  decodeTxn 0x600C 0x80 = .ok (.wrDstLo .b4 0x80) ∧ decodeTxn 0x2010 0 = .ok (.rdDstHi .b4) ∧
  decodeTxn 0x6014 0x10 = .ok (.wrSize .b4 0x10) ∧ decodeTxn 0x2018 0 = .ok (.rdStatus .b4) ∧
  decodeTxn 0x6018 0x55 = .ok (.wrStatus .b4 0x55) ∧ decodeTxn 0x501C 0xBEEF = .ok (.wrScratch .b2 0xBEEF) ∧
  decodeTxn 0x3000 0 = .ok (.rdWide 0x000) ∧ decodeTxn 0x701C 1 = .ok (.wrWide 0x01C 1) ∧
  decodeTxn 0x101A 0 = .ok (.rdUnmapped .b2 0x01A) ∧ decodeTxn 0x4001 1 = .ok (.wrUnmapped .b1 0x001 1)

/-- R86 for an access given by the source's own fields: the bus refuses exactly the widths other than 1, 2, 4 and 8 bytes and the
offsets of 4096 and more (the spec's decisions D2 and D7), each by its name; any other access is decoded, never refused, and the
descriptor's size code says its width: `w = 1 << sz` (R81). -/
def Obligations.BusRefusesExactlyUndeliverableAccesses : Prop :=
  ∀ (offset width : Nat) (write : Bool) (value : Data),
    (width ≠ 1 ∧ width ≠ 2 ∧ width ≠ 4 ∧ width ≠ 8 → packAccess offset width write value = .error .badWidth) ∧
    (width = 1 ∨ width = 2 ∨ width = 4 ∨ width = 8 → 4096 ≤ offset →
      packAccess offset width write value = .error .outsideWindow) ∧
    (width = 1 ∨ width = 2 ∨ width = 4 ∨ width = 8 → offset < 4096 →
      ∃ t wdata i, packAccess offset width write value = .ok (t, wdata) ∧ (descOff t).toNat = offset ∧
        width = 1 <<< (descSz t).toNat ∧ (width ≠ 8 → (widthOf (descSz t)).map Width.bytes = some width) ∧
        (width = 8 → descSz t = 3) ∧ descDir t = write ∧ wdata.toNat = value.toNat % 2 ^ (8 * width) ∧ decodeTxn t wdata = .ok i)

/-! ### The step -/

/-- 40_register_file.md R118: a step decodes the transaction the host issues and runs the rule of its kind, on the state from which
the transaction has been taken. -/
def Obligations.StepRunsTheDecodedTransaction : Prop :=
  ∀ (s : State) (t : BitVec 16) (wdata : Data) (rest : List HostMove) (i : Instr),
    s.faulted = false → s.refused = false → s.pending = .transaction t wdata :: rest → decodeTxn t wdata = .ok i →
    step s = exec i { s with pending := rest }

/-- R118 with 30_encoding.md R81: an access by the source's own fields runs the same way once the bus has packed it. -/
def Obligations.StepRunsTheDeliveredAccess : Prop :=
  ∀ (s : State) (offset width : Nat) (write : Bool) (value : Data) (t : BitVec 16) (wdata : Data) (rest : List HostMove) (i : Instr),
    s.faulted = false → s.refused = false → s.pending = .access offset width write value :: rest →
    packAccess offset width write value = .ok (t, wdata) → decodeTxn t wdata = .ok i →
    step s = exec i { s with pending := rest }

/-- 10_state.md R33 and R118: from a state with a mark set no step is taken (the marks are the spec's decision D13). -/
def Obligations.MarkedStatesTakeNoStep : Prop :=
  ∀ (s : State), (s.faulted = true ∨ s.refused = true) → ∀ t, step s ≠ .next t

/-- 30_encoding.md R86: a transaction the bus cannot deliver is refused; the refusal sets `refused`, changes no other state and
produces no event (the spec's decisions D2 and D7; data above the width is the model's reading of R81, log entry 12). -/
def Obligations.UndeliverableTransactionsAreRefused : Prop :=
  ∀ (s : State) (rest : List HostMove), s.faulted = false → s.refused = false →
    (∀ t wdata e, s.pending = .transaction t wdata :: rest → decodeTxn t wdata = .error e →
      step s = .refused (.undeliverable e { s with pending := rest, refused := true })) ∧
    (∀ offset width write value e, s.pending = .access offset width write value :: rest →
      packAccess offset width write value = .error e →
      step s = .refused (.undeliverable e { s with pending := rest, refused := true }))

/-- 70_reset_and_hazards.md R231 and 42_interrupt_dispatcher.md R170: with no move of the host waiting the block waits (the model's
reading, log entry 2), and a mode change between transactions changes nothing else. -/
def Obligations.HostMovesThatRunNoTransaction : Prop :=
  ∀ (s : State), s.faulted = false → s.refused = false →
    (s.pending = [] → step s = .next s) ∧
    (∀ m rest, s.pending = .setMode m :: rest → step s = .next { s with pending := rest, mode := m })

/-- 60_exceptions.md R203: no transaction of the block returns a bus error. Every access the bus can deliver ends in a next state,
whatever its kind, its data and the external memory's answers, as long as the caller keeps both local ranges in the buffer. -/
def Obligations.EveryDeliverableAccessCompletes : Prop :=
  ∀ (s : State) (offset width : Nat) (write : Bool) (value : Data) (rest : List HostMove),
    s.faulted = false → s.refused = false → s.pending = .access offset width write value :: rest →
    (width = 1 ∨ width = 2 ∨ width = 4 ∨ width = 8) → offset < 4096 → InBounds .read s → InBounds .write s →
    ∃ t, step s = .next t

/-- 20_memory.md R63, R179 and 00_scope.md R14: no step takes back or reorders an event that was produced. -/
def Obligations.StepsOnlyAppendEvents : Prop := ∀ (s t : State), step s = .next t → ∃ es, t.events = s.events ++ es

/-! ### Plain register accesses -/

/-- 40_register_file.md R100: the read answers with `command`, which is 0 between steps, and which every completed command write
leaves 0. -/
def Obligations.CommandReadsZero : Prop :=
  (∀ (w : Width) (x : Data), decodeTxn (packDesc false w.code 0x000) x = .ok (.rdCmd w)) ∧
  (∀ w s, exec (.rdCmd w) s = .next (s.respond (responseOf w.bytes ((s.reg .command).setWidth 64)))) ∧
  (∀ w s, MachineInv s → exec (.rdCmd w) s = .next (s.respond (responseOf w.bytes 0))) ∧
  (∀ w wdata s t, exec (.wrCmd w wdata) s = .next t → t.reg .command = 0)

/-- R102, R104, R106, R108, R110: each descriptor register reads back exactly what was last written, of which
a read narrower than 4 bytes gives the low bytes (R112, the spec's decision D4), and no transfer changes it. -/
def Obligations.DescriptorReadsReturnTheLastWrite : Prop :=
  (∀ (w : Width) (x : Data),
    decodeTxn (packDesc false w.code 0x004) x = .ok (.rdSrcLo w) ∧ decodeTxn (packDesc false w.code 0x008) x = .ok (.rdSrcHi w) ∧
    decodeTxn (packDesc false w.code 0x00C) x = .ok (.rdDstLo w) ∧ decodeTxn (packDesc false w.code 0x010) x = .ok (.rdDstHi w) ∧
    decodeTxn (packDesc false w.code 0x014) x = .ok (.rdSize w)) ∧
  (∀ w s,
    exec (.rdSrcLo w) s = .next (s.respond (responseOf w.bytes ((s.reg .srcLow).setWidth 64))) ∧
    exec (.rdSrcHi w) s = .next (s.respond (responseOf w.bytes ((s.reg .srcHigh).setWidth 64))) ∧
    exec (.rdDstLo w) s = .next (s.respond (responseOf w.bytes ((s.reg .dstLow).setWidth 64))) ∧
    exec (.rdDstHi w) s = .next (s.respond (responseOf w.bytes ((s.reg .dstHigh).setWidth 64))) ∧
    exec (.rdSize w) s = .next (s.respond (responseOf w.bytes ((s.reg .size).setWidth 64)))) ∧
  (∀ r w w' wdata s, isDescriptor r = true → ∃ t u, exec (writeOf w wdata r) s = .next t ∧ exec (readOf w' r) t = .next u ∧
    u.response = some (responseOf w'.bytes ((wdata.setWidth 32).setWidth 64))) ∧
  (∀ r w wdata s t, isDescriptor r = true → exec (.wrCmd w wdata) s = .next t → t.reg r = s.reg r)

/-- R103, R105, R107, R109, R111: any value is stored, nothing else changes, a 1-byte write clears bits 31:8 (R113, the spec's decision
D4). A nonzero high half on the local side overruns at the next transfer, a size over 4096 overruns either way (R148, the spec's
decision D13), and a size of 0 is legal (R156, D15). -/
def Obligations.DescriptorWritesStoreTheLowWord : Prop :=
  (∀ (w : Width) (x : Data), w.fits x = true →
    decodeTxn (packDesc true w.code 0x004) x = .ok (.wrSrcLo w x) ∧ decodeTxn (packDesc true w.code 0x008) x = .ok (.wrSrcHi w x) ∧
    decodeTxn (packDesc true w.code 0x00C) x = .ok (.wrDstLo w x) ∧ decodeTxn (packDesc true w.code 0x010) x = .ok (.wrDstHi w x) ∧
    decodeTxn (packDesc true w.code 0x014) x = .ok (.wrSize w x)) ∧
  (∀ w wdata s,
    exec (.wrSrcLo w wdata) s = .next ((s.setReg .srcLow (wdata.setWidth 32)).noResponse) ∧
    exec (.wrSrcHi w wdata) s = .next ((s.setReg .srcHigh (wdata.setWidth 32)).noResponse) ∧
    exec (.wrDstLo w wdata) s = .next ((s.setReg .dstLow (wdata.setWidth 32)).noResponse) ∧
    exec (.wrDstHi w wdata) s = .next ((s.setReg .dstHigh (wdata.setWidth 32)).noResponse) ∧
    exec (.wrSize w wdata) s = .next ((s.setReg .size (wdata.setWidth 32)).noResponse)) ∧
  (∀ r wdata s t, isDescriptor r = true → Width.b1.fits wdata = true → exec (writeOf .b1 wdata r) s = .next t →
    (t.reg r).toNat = wdata.toNat ∧ (t.reg r).toNat < 256) ∧
  (∀ s, s.reg .srcHigh ≠ 0 → ∀ t, dma .write s ≠ .next t) ∧
  (∀ s, s.reg .dstHigh ≠ 0 → ∀ t, dma .read s ≠ .next t) ∧
  (∀ s dir, 4096 < (s.reg .size).toNat → ∀ t, dma dir s ≠ .next t) ∧
  (∀ s dir, s.reg .size = 0 → (s.localOffset dir).toNat ≤ 4096 → ∃ t, dma dir s = .next t)

/-- R116, R117 and 10_state.md R28: `scratch` is 11 after reset, is read and written with no side effect (widths as R112 and R113 say,
the spec's decision D4), and nothing but a write of it changes it. -/
def Obligations.ScratchHoldsWhatWasWritten : Prop :=
  (∀ (w : Width) (x : Data), decodeTxn (packDesc false w.code 0x01C) x = .ok (.rdScratch w) ∧
    (w.fits x = true → decodeTxn (packDesc true w.code 0x01C) x = .ok (.wrScratch w x))) ∧
  (∀ w s, exec (.rdScratch w) s = .next (s.respond (responseOf w.bytes ((s.reg .scratch).setWidth 64)))) ∧
  (∀ w wdata s, exec (.wrScratch w wdata) s = .next ((s.setReg .scratch (wdata.setWidth 32)).noResponse)) ∧
  (∀ d m w, exec (.rdScratch w) (State.resetWith d m) = .next ((State.resetWith d m).respond (responseOf w.bytes 11))) ∧
  (∀ i s t, exec i s = .next t → t.reg .scratch ≠ s.reg .scratch → IsWriteOf .scratch i)

/-- R112: `rdata` is the register, zero-extended, and the bus delivers its low `8*w` bits (the spec's decision D4), for every register. -/
def Obligations.ReadDeliversTheLowBytes : Prop :=
  ∀ (r : Reg) (w : Width) (s : State), ∃ t p, exec (readOf w r) s = .next t ∧ t.response = some p ∧
    p.rdata.toNat = (s.reg r).toNat ∧ p.delivered.toNat = (s.reg r).toNat % 2 ^ (8 * w.bytes)

/-- R113 and 70_reset_and_hazards.md R240: a write of any register but `command` replaces all 32 bits of it; with data the bus can carry,
the bytes above the width become 0 (the spec's decision D4). -/
def Obligations.WriteReplacesTheWholeRegister : Prop :=
  ∀ (r : Reg) (w : Width) (wdata : Data) (s : State), r ≠ .command → w.fits wdata = true →
    ∃ t, exec (writeOf w wdata r) s = .next t ∧ (t.reg r).toNat = wdata.toNat ∧ (t.reg r).toNat < 2 ^ (8 * w.bytes) ∧
      (∀ q, q ≠ r → t.reg q = s.reg q)

/-- R115: a write of `interrupt_status` stores any value and does nothing else; it neither signals nor touches the line. -/
def Obligations.StatusWriteIsARawOverwrite : Prop :=
  ∀ w wdata s, exec (.wrStatus w wdata) s = .next ((s.setReg .status (wdata.setWidth 32)).noResponse)

/-- R114: a status read returns the value, clears all 32 bits at every width (D4), deasserts the line in legacy mode only, and a second
read returns 0. -/
def Obligations.StatusReadReturnsAndClears : Prop :=
  ∀ (w : Width) (s : State), ∃ t, exec (.rdStatus w) s = .next t ∧
    t.response = some (responseOf w.bytes ((s.reg .status).setWidth 64)) ∧ t.reg .status = 0 ∧
    (∀ q, q ≠ .status → t.reg q = s.reg q) ∧
    (s.mode = .legacy → t.intxLevel = false ∧ t.events = s.events ++ [.line false]) ∧
    (s.mode ≠ .legacy → t.intxLevel = s.intxLevel ∧ t.events = s.events) ∧
    (∀ a, t.bufByte a = s.bufByte a) ∧ t.vectorTurnCounter = s.vectorTurnCounter ∧ t.mode = s.mode ∧
    (∀ w', ∃ u, exec (.rdStatus w') t = .next u ∧ u.response = some (responseOf w'.bytes 0) ∧ u.intxLevel = t.intxLevel)

/-! ### Rejected and unmapped accesses -/

/-- R120 and R122: the sentinel is all ones and no state changes; the bus delivers all ones in the access's width (D6). -/
def Obligations.RejectedReadsReturnTheSentinel : Prop :=
  (∀ off s, exec (.rdWide off) s =
    .next (s.respond { rdata := 0xFFFFFFFFFFFFFFFF, delivered := 0xFFFFFFFFFFFFFFFF })) ∧
  (∀ off wdata, decodeTxn (packDesc false 3 off) wdata = .ok (.rdWide off)) ∧
  (∀ w off s, ∃ p, exec (.rdUnmapped w off) s = .next (s.respond p) ∧ p.rdata = 0xFFFFFFFFFFFFFFFF ∧
    p.delivered.toNat = 2 ^ (8 * w.bytes) - 1) ∧
  (∀ (w : Width) off wdata, isMapped off = false → decodeTxn (packDesc false w.code off) wdata = .ok (.rdUnmapped w off))

/-- R121 and R123: an 8-byte write at any offset, and an honoured write at an unmapped offset, are discarded: no register, no byte of
the buffer, no line and no external access. -/
def Obligations.RejectedWritesChangeNothing : Prop :=
  (∀ off wdata s, exec (.wrWide off wdata) s = .next s.noResponse) ∧
  (∀ off wdata, decodeTxn (packDesc true 3 off) wdata = .ok (.wrWide off wdata)) ∧
  (∀ w off wdata s, exec (.wrUnmapped w off wdata) s = .next s.noResponse) ∧
  (∀ (w : Width) off wdata, isMapped off = false → w.fits wdata = true →
    decodeTxn (packDesc true w.code off) wdata = .ok (.wrUnmapped w off wdata))

/-! ### The DMA Engine -/

/-- 41_dma_engine.md R142: both 64-bit values are `(high << 32) | low`, exactly, and nothing else contributes. -/
def Obligations.AddressesAreAssembledFromTheHalves : Prop :=
  ∀ s : State,
    s.src64 = ((s.reg .srcHigh).setWidth 64 <<< 32) ||| (s.reg .srcLow).setWidth 64 ∧
    s.dst64 = ((s.reg .dstHigh).setWidth 64 <<< 32) ||| (s.reg .dstLow).setWidth 64 ∧
    s.src64.toNat = (s.reg .srcHigh).toNat * 2 ^ 32 + (s.reg .srcLow).toNat ∧
    s.dst64.toNat = (s.reg .dstHigh).toNat * 2 ^ 32 + (s.reg .dstLow).toNat

/-- 40_register_file.md R101 with 10_state.md R21: a command value with neither trigger bit starts nothing and leaves `command` 0. -/
def Obligations.CommandWithoutATriggerBitDoesNothing : Prop :=
  ∀ (w : Width) (wdata : Data) (s : State), wdata.getLsbD 0 = false → wdata.getLsbD 1 = false →
    exec (.wrCmd w wdata) s = .next ((s.setReg .command 0).noResponse)

/-- R149, R150, R151 (with R142 to R144, R179): a triggered read whose external call succeeds copies the `n` bytes of the answer to the
buffer at `dst64`, byte for byte, leaves every other byte, sets `interrupt_status` to 1 whatever it was, and signals once, after the
external call. -/
def Obligations.ReadTransferCopiesExternalBytesIn : Prop :=
  ∀ (w : Width) (wdata : Data) (s : State) (bytes : List Byte), Selects .read wdata → InBounds .read s →
    s.readResult (s.reg .size) = .ok bytes →
    ∃ t, exec (.wrCmd w wdata) s = .next t ∧ bytes.length = (s.reg .size).toNat ∧
      (∀ i (h : i < bytes.length), t.bufByte (s.dst64.toNat + i) = bytes[i]) ∧
      (∀ a, ¬ InRange .read s a → t.bufByte a = s.bufByte a) ∧
      t.reg .status = 1 ∧ t.reg .command = 0 ∧ (∀ q, q ≠ .status → q ≠ .command → t.reg q = s.reg q) ∧
      t.events = s.events ++ [.extRead s.src64 (s.reg .size) (.ok bytes), signalOf s.mode s.vectorTurnCounter] ∧
      t.vectorTurnCounter = counterAfter s.mode s.vectorTurnCounter ∧ t.intxLevel = lineAfter s.mode s.intxLevel ∧
      t.mode = s.mode ∧ t.pending = s.pending ∧ t.response = none ∧ t.faulted = s.faulted ∧ t.refused = s.refused

/-- R153, R154, R155 (with R142 to R144, R179): a triggered write whose external call succeeds sends the `n` bytes of the buffer at
`src64` to the external address `dst64`, in order, sets `interrupt_status` to 2 whatever it was, and signals once, after
the external call. A triggered write changes no byte of the buffer, whether it succeeds or fails. -/
def Obligations.WriteTransferSendsBufferBytesOut : Prop :=
  (∀ (w : Width) (wdata : Data) (s : State), Selects .write wdata → InBounds .write s → s.writeResult = true →
    ∃ t bytes, exec (.wrCmd w wdata) s = .next t ∧ bytes.length = (s.reg .size).toNat ∧
      (∀ i (h : i < bytes.length), bytes[i] = s.bufByte (s.src64.toNat + i)) ∧
      t.reg .status = 2 ∧ t.reg .command = 0 ∧ (∀ q, q ≠ .status → q ≠ .command → t.reg q = s.reg q) ∧
      t.events = s.events ++ [.extWrite s.dst64 (s.reg .size) bytes true, signalOf s.mode s.vectorTurnCounter] ∧
      t.vectorTurnCounter = counterAfter s.mode s.vectorTurnCounter ∧ t.intxLevel = lineAfter s.mode s.intxLevel ∧
      t.mode = s.mode ∧ t.pending = s.pending ∧ t.response = none ∧ t.faulted = s.faulted ∧ t.refused = s.refused) ∧
  (∀ (w : Width) (wdata : Data) (s t : State), Selects .write wdata → exec (.wrCmd w wdata) s = .next t →
    ∀ a, t.bufByte a = s.bufByte a)

/-- 60_exceptions.md R202 (with 41_dma_engine.md R152 and R172): a transfer whose external call fails completes silently: no signal,
`interrupt_status` and the descriptor unchanged, `command` 0. A failed write leaves the buffer; a failed read leaves every byte outside
its range, and inside it the bytes are free (the spec's decision D14, log entry 8). -/
def Obligations.FailedTransferIsSilent : Prop :=
  ∀ (dir : Direction) (w : Width) (wdata : Data) (s : State), Selects dir wdata → InBounds dir s → s.nextAnswer = .fail →
    ∃ t e, exec (.wrCmd w wdata) s = .next t ∧ t.reg .command = 0 ∧ (∀ q, q ≠ .command → t.reg q = s.reg q) ∧
      t.events = s.events ++ [e] ∧ isExternal e = true ∧ isSignal e = false ∧
      t.vectorTurnCounter = s.vectorTurnCounter ∧ t.intxLevel = s.intxLevel ∧ t.mode = s.mode ∧ t.pending = s.pending ∧
      (dir = .read → e = .extRead s.src64 (s.reg .size) .fail) ∧
      (dir = .read → ∃ k, ∀ i, i < (s.reg .size).toNat → t.bufByte (s.dst64.toNat + i) = Config.failedReadByte k i) ∧
      (dir = .read → ∀ a, ¬ InRange .read s a → t.bufByte a = s.bufByte a) ∧
      (dir = .write → e = .extWrite s.dst64 (s.reg .size) (s.bufBytes s.src64.toNat (s.reg .size).toNat) false) ∧
      (dir = .write → ∀ a, t.bufByte a = s.bufByte a)

/-- R148, 60_exceptions.md R204 and R206 (the spec's decisions D12 and D13): the first transfer that a command write starts, out of the
buffer's bounds, faults before any external access, whether one trigger bit is set or both, for every `DUAL_TRIGGER`. The command
value written stands, `faulted` is set, and nothing else of the state has changed. -/
def Obligations.OverrunFaultsBeforeAnyAccess : Prop :=
  (∀ (dir : Direction) (w : Width) (wdata : Data) (s : State), Selects dir wdata → ¬ InBounds dir s →
    exec (.wrCmd w wdata) s = .fault (.bufferOverrun dir (s.localOffset dir) (s.reg .size)
      { s with command := wdata.setWidth 32, response := none, faulted := true })) ∧
  (∀ (dt : DualTrigger) (dir : Direction) (v : Word) (s : State), v.getLsbD 0 = true → v.getLsbD 1 = true →
    (dualDirections dt).head? = some dir → ¬ InBounds dir s →
    commandWrite dt v s = .fault (.bufferOverrun dir (s.localOffset dir) (s.reg .size)
      { s with command := v, response := none, faulted := true }))

/-- R101 and R203: with both local ranges in the buffer, a command write with any data operand ends in a next state, whatever
`DUAL_TRIGGER` is and whatever the external memory answers; `command` is 0 and the descriptor and `scratch` are as they were. -/
def Obligations.CommandWriteCompletesInBounds : Prop :=
  ∀ (w : Width) (wdata : Data) (s : State), InBounds .read s → InBounds .write s →
    ∃ t, exec (.wrCmd w wdata) s = .next t ∧ t.reg .command = 0 ∧ (∀ q, q ≠ .status → q ≠ .command → t.reg q = s.reg q)

/-- R101 and D12: with both trigger bits set, the transfers that start are those of `DUAL_TRIGGER`, in its order, each with one external
call; for every value the parameter may have, and the machine takes one of them. -/
def Obligations.DualTriggerStartsItsTransfersInOrder : Prop :=
  (∀ w wdata s, exec (.wrCmd w wdata) s = commandWrite Config.dualTrigger (wdata.setWidth 32) s) ∧
  (∀ (dt : DualTrigger) (v : Word) (s t : State), v.getLsbD 0 = true → v.getLsbD 1 = true → commandWrite dt v s = .next t →
    ∃ es, t.events = s.events ++ es ∧ es.filterMap eventDirection = dualDirections dt)

/-- 60_exceptions.md R204 and R206 (the spec's decisions D12 and D13): when the second of two transfers overruns, the whole first
transfer stands in the state the fault leaves. -/
def Obligations.OverrunOfTheSecondTransferKeepsTheFirst : Prop :=
  ∀ (v : Word) (s u : State), v.getLsbD 0 = true → v.getLsbD 1 = true →
    (dma .read ((s.setReg .command v).noResponse) = .next u → ¬ InBounds .write s →
      commandWrite .readThenWrite v s =
        .fault (.bufferOverrun .write (s.localOffset .write) (s.reg .size) { u with faulted := true })) ∧
    (dma .write ((s.setReg .command v).noResponse) = .next u → ¬ InBounds .read s →
      commandWrite .writeThenRead v s =
        .fault (.bufferOverrun .read (s.localOffset .read) (s.reg .size) { u with faulted := true }))

/-- R156 (the spec's decision D15): a zero-length transfer is legal up to offset 4096; the external memory's answer decides. On `Ok` no byte
moves, the status is the direction code and the completion is signalled. -/
def Obligations.ZeroLengthTransferMovesNothing : Prop :=
  ∀ (dir : Direction) (w : Width) (wdata : Data) (s : State) (bytes : List Byte), Selects dir wdata → s.reg .size = 0 →
    (s.localOffset dir).toNat ≤ 4096 → s.nextAnswer = .ok bytes →
    ∃ t e, exec (.wrCmd w wdata) s = .next t ∧ (∀ a, t.bufByte a = s.bufByte a) ∧ t.reg .status = Direction.code dir ∧
      t.events = s.events ++ [e, signalOf s.mode s.vectorTurnCounter] ∧
      (dir = .read → e = .extRead s.src64 0 (.ok [])) ∧ (dir = .write → e = .extWrite s.dst64 0 [] true)

/-- 20_memory.md R57 and R149, R153 (the spec's decision D22): a transfer makes exactly one external call, at most one signal, and touches
no descriptor register. -/
def Obligations.EachTransferMakesOneExternalCall : Prop :=
  ∀ (dir : Direction) (s t : State), dma dir s = .next t →
    ∃ es, t.events = s.events ++ es ∧ es.filterMap eventDirection = [dir] ∧ (es.filter isSignal).length ≤ 1 ∧
      t.draws > s.draws ∧ t.extAnswers = s.extAnswers.tail ∧ (∀ q, q ≠ .status → t.reg q = s.reg q)

/-- R145 and R146: the copy state machine, started by `DMA(dir)`, comes back to `IDLE` or raises the fault within five transitions, and
what it computes is `DMA(dir)`. -/
def Obligations.CopyStateMachineComputesTheTransfer : Prop :=
  ∀ (dir : Direction) (s : State), fsmRun 5 (.assemble dir) s = some (dma dir s)

/-! ### The Interrupt Dispatcher -/

/-- 42_interrupt_dispatcher.md R171, R173, R174, R175: each dispatch takes exactly the path of the mode of that moment. -/
def Obligations.DispatchSignalsByTheMode : Prop :=
  ∀ s : State,
    (dispatch s).events = s.events ++ [signalOf s.mode s.vectorTurnCounter] ∧
    (s.mode = .multiVector → (dispatch s).vectorTurnCounter = s.vectorTurnCounter ^^^ 1) ∧
    (s.mode ≠ .multiVector → (dispatch s).vectorTurnCounter = s.vectorTurnCounter) ∧
    (s.mode = .legacy → (dispatch s).intxLevel = true) ∧
    (s.mode ≠ .legacy → (dispatch s).intxLevel = s.intxLevel) ∧
    (∀ q, (dispatch s).reg q = s.reg q) ∧ (dispatch s).localBuffer = s.localBuffer ∧ (dispatch s).mode = s.mode

/-- R173 and 90_conflicts.md C3, C4: from a counter of 0, completions in multi-vector mode signal the vectors 1, 0, 1, ... in turn, and the
counter is the parity of their number. -/
def Obligations.MultiVectorCompletionsAlternate : Prop :=
  ∀ (k : Nat) (s : State), s.mode = .multiVector → s.vectorTurnCounter = 0 →
    (dispatches k s).events = s.events ++ (List.range k).map (fun j => .msg .multi (if j % 2 = 0 then 1 else 0)) ∧
    (dispatches k s).vectorTurnCounter = BitVec.ofNat 1 k

/-- R177 and R175: the line is deasserted exclusively by a status read in legacy mode, which deasserts it whatever the value read; and it is
asserted only by a command write in legacy mode. -/
def Obligations.LineChangesOnlyInLegacyMode : Prop :=
  (∀ w s, s.mode = .legacy → ∃ t, exec (.rdStatus w) s = .next t ∧ t.intxLevel = false ∧ t.events = s.events ++ [.line false]) ∧
  (∀ w s, s.mode ≠ .legacy → ∃ t, exec (.rdStatus w) s = .next t ∧ t.intxLevel = s.intxLevel ∧ t.events = s.events) ∧
  (∀ i s t, exec i s = .next t → s.intxLevel = true → t.intxLevel = false → s.mode = .legacy ∧ ∃ w, i = .rdStatus w) ∧
  (∀ i s t, exec i s = .next t → s.intxLevel = false → t.intxLevel = true → s.mode = .legacy ∧ IsWriteOf .command i)

/-- 10_state.md R30 and R172: `vector_turn_counter` changes only in a command write in multi-vector mode that completed a transfer. -/
def Obligations.CounterChangesOnlyInMultiVectorMode : Prop :=
  ∀ (i : Instr) (s t : State), exec i s = .next t → t.vectorTurnCounter ≠ s.vectorTurnCounter →
    s.mode = .multiVector ∧ IsWriteOf .command i ∧ (t.reg .status = 1 ∨ t.reg .status = 2)

/-- R178: in legacy mode, as long as the host writes no status and changes no mode, the line is asserted exactly when the status is not 0. -/
def Obligations.LegacyLineFollowsTheStatus : Prop :=
  ∀ (s t : State), LegacyCoherent s → step s = .next t →
    (∀ m rest, s.pending = m :: rest → (∀ i, moveInstr m = some i → ¬ IsWriteOf .status i) ∧ ∀ m', m ≠ .setMode m') →
    LegacyCoherent t

/-! ### Whole-machine rules -/

/-- 10_state.md R27, R36 and 90_conflicts.md C2: without a host write of it, `interrupt_status` only ever holds 0, 1 or 2. -/
def Obligations.StatusIsACodeWithoutHostWrites : Prop :=
  ∀ (s t : State), StatusCoded s → step s = .next t →
    (∀ m rest i, s.pending = m :: rest → moveInstr m = some i → ¬ IsWriteOf .status i) → StatusCoded t

/-- 10_state.md R21 to R28: a register changes only by a write of that register or a reset; `interrupt_status` also by a status read and by a
command write. -/
def Obligations.RegistersChangeOnlyByTheirWriters : Prop :=
  ∀ (s t : State) (q : Reg), MachineInv s → step s = .next t → t.reg q ≠ s.reg q →
    ∃ m rest, s.pending = m :: rest ∧ (m = .reset ∨ ∃ i, moveInstr m = some i ∧
      (IsWriteOf q i ∨ (q = .status ∧ (IsWriteOf .command i ∨ ∃ w, i = .rdStatus w))))

/-- 10_state.md R29: no register access but a command write (and no mode change) changes a byte of the local buffer. -/
def Obligations.BufferChangesOnlyByCommandWrites : Prop :=
  ∀ (s t : State) (a : Nat), step s = .next t → t.bufByte a ≠ s.bufByte a →
    ∃ m rest, s.pending = m :: rest ∧ (m = .reset ∨ ∃ i, moveInstr m = some i ∧ IsWriteOf .command i)

/-- 10_state.md R29: no register access reads the local buffer. Of two states that differ only there, every transaction makes states that
agree in everything else; only the bytes an external write carries may differ. -/
def Obligations.BufferContentsReachOnlyExternalWrites : Prop :=
  ∀ (i : Instr) (s t : State) (m : Memory), exec i s = .next t →
    ∃ u, exec i { s with localBuffer := m } = .next u ∧ (∀ q, u.reg q = t.reg q) ∧ u.response = t.response ∧
      u.vectorTurnCounter = t.vectorTurnCounter ∧ u.intxLevel = t.intxLevel ∧ u.mode = t.mode ∧ u.pending = t.pending ∧
      u.extAnswers = t.extAnswers ∧ u.draws = t.draws ∧ u.events.map hideBytes = t.events.map hideBytes

/-- 30_encoding.md R85 and 10_state.md R31: the mode matters only to a status read and a command write; to any other transaction it is as if
the host changed the mode after it. -/
def Obligations.ModeMattersOnlyToStatusReadAndCommandWrite : Prop :=
  ∀ (i : Instr) (s : State) (m : Mode), ¬ IsWriteOf .command i → (∀ w, i ≠ .rdStatus w) →
    ∃ t, exec i s = .next t ∧ exec i (s.changeMode m) = .next (t.changeMode m)

/-- 20_memory.md R56: every read but a status read has no side effect and is idempotent. -/
def Obligations.ReadsOtherThanStatusAreIdempotent : Prop :=
  ∀ (i : Instr) (s : State), encodeData i = none → (∀ w, i ≠ .rdStatus w) →
    ∃ t p, exec i s = .next t ∧ t = s.respond p ∧ exec i t = .next t

/-- The frame of every kind but a command write (R56, R100 to R117, R120 to R123): buffer, counter and external ports are untouched; no
register but the one written (and the status, by a status read) changes; only a status read touches the line and the events. -/
def Obligations.PlainAccessFrame : Prop :=
  ∀ (i : Instr) (s t : State), exec i s = .next t → ¬ IsWriteOf .command i →
    (∀ a, t.bufByte a = s.bufByte a) ∧ t.vectorTurnCounter = s.vectorTurnCounter ∧ t.extAnswers = s.extAnswers ∧
    t.draws = s.draws ∧ t.mode = s.mode ∧ t.pending = s.pending ∧ t.faulted = s.faulted ∧ t.refused = s.refused ∧
    (∀ q, ¬ IsWriteOf q i → (q = .status → ∀ w, i ≠ .rdStatus w) → t.reg q = s.reg q) ∧
    ((∀ w, i ≠ .rdStatus w) → t.intxLevel = s.intxLevel ∧ t.events = s.events)

/-- The frame of a command write (R101, R147, R150, R154, R157): only `command` and `interrupt_status` of the registers may change. The bytes it
may store to are those of the read direction's local range, `InRange .read`, and only if its read bit is set; every other byte reads as
before. -/
def Obligations.CommandWriteFrame : Prop :=
  ∀ (w : Width) (wdata : Data) (s t : State), exec (.wrCmd w wdata) s = .next t →
    (∀ q, q ≠ .command → q ≠ .status → t.reg q = s.reg q) ∧
    (∀ a, ¬ InRange .read s a → t.bufByte a = s.bufByte a) ∧
    (wdata.getLsbD 0 = false → ∀ a, t.bufByte a = s.bufByte a) ∧
    (s.mode ≠ .multiVector → t.vectorTurnCounter = s.vectorTurnCounter) ∧
    (s.mode ≠ .legacy → t.intxLevel = s.intxLevel) ∧
    t.mode = s.mode ∧ t.pending = s.pending ∧ t.response = none ∧ t.faulted = s.faulted ∧ t.refused = s.refused

/-- 30_encoding.md R88 with R142: the two writes of `set_src` leave `src64` at their argument, and those of `set_dst` leave `dst64` at theirs. -/
def Obligations.SetAddressMacrosAssembleTheirArgument : Prop :=
  ∀ (a : Addr) (s : State),
    (∃ i j t u, setSrc a = [i, j] ∧ exec i s = .next t ∧ exec j t = .next u ∧ u.src64 = a ∧ u.dst64 = s.dst64 ∧ u.reg .size = s.reg .size) ∧
    (∃ i j t u, setDst a = [i, j] ∧ exec i s = .next t ∧ exec j t = .next u ∧ u.dst64 = a ∧ u.src64 = s.src64 ∧ u.reg .size = s.reg .size)

/-! ### Command writes with both trigger bits set -/

/-- R101 with 41_dma_engine.md R150, R151, R154, R155 and R179 (the spec's decision D12, vector IN8): with both trigger bits set and both
external calls successful, the two-transfer settings run the two transfers whole, one after the other. In read-then-write the bytes sent
are those of the buffer after the read; in write-then-read those before it. Each transfer signals after its own external call. -/
def Obligations.DualTriggerRunsBothTransfersInOrder : Prop :=
  ∀ (v : Word) (s : State) (bytes : List Byte), v.getLsbD 0 = true → v.getLsbD 1 = true → InBounds .read s → InBounds .write s →
    (s.readResult (s.reg .size) = .ok bytes → s.useAnswer.writeResult = true →
      ∃ t out, commandWrite .readThenWrite v s = .next t ∧ bytes.length = (s.reg .size).toNat ∧
        (∀ i (h : i < bytes.length), t.bufByte (s.dst64.toNat + i) = bytes[i]) ∧
        (∀ a, ¬ InRange .read s a → t.bufByte a = s.bufByte a) ∧ out.length = (s.reg .size).toNat ∧
        (∀ i (h : i < out.length), out[i] = t.bufByte (s.src64.toNat + i)) ∧
        t.reg .status = 2 ∧ t.reg .command = 0 ∧ (∀ q, q ≠ .status → q ≠ .command → t.reg q = s.reg q) ∧
        t.events = s.events ++ [.extRead s.src64 (s.reg .size) (.ok bytes), signalOf s.mode s.vectorTurnCounter,
          .extWrite s.dst64 (s.reg .size) out true, signalOf s.mode (counterAfter s.mode s.vectorTurnCounter)] ∧
        t.vectorTurnCounter = counterAfter s.mode (counterAfter s.mode s.vectorTurnCounter) ∧
        t.intxLevel = lineAfter s.mode s.intxLevel ∧ t.mode = s.mode ∧ t.pending = s.pending ∧ t.response = none ∧
        t.faulted = s.faulted ∧ t.refused = s.refused) ∧
    (s.writeResult = true → s.useAnswer.readResult (s.reg .size) = .ok bytes →
      ∃ t out, commandWrite .writeThenRead v s = .next t ∧ bytes.length = (s.reg .size).toNat ∧
        (∀ i (h : i < bytes.length), t.bufByte (s.dst64.toNat + i) = bytes[i]) ∧
        (∀ a, ¬ InRange .read s a → t.bufByte a = s.bufByte a) ∧ out.length = (s.reg .size).toNat ∧
        (∀ i (h : i < out.length), out[i] = s.bufByte (s.src64.toNat + i)) ∧
        t.reg .status = 1 ∧ t.reg .command = 0 ∧ (∀ q, q ≠ .status → q ≠ .command → t.reg q = s.reg q) ∧
        t.events = s.events ++ [.extWrite s.dst64 (s.reg .size) out true, signalOf s.mode s.vectorTurnCounter,
          .extRead s.src64 (s.reg .size) (.ok bytes), signalOf s.mode (counterAfter s.mode s.vectorTurnCounter)] ∧
        t.vectorTurnCounter = counterAfter s.mode (counterAfter s.mode s.vectorTurnCounter) ∧
        t.intxLevel = lineAfter s.mode s.intxLevel ∧ t.mode = s.mode ∧ t.pending = s.pending ∧ t.response = none ∧
        t.faulted = s.faulted ∧ t.refused = s.refused)

/-- 60_exceptions.md R206 (the spec's decision D12): in the two-transfer settings each transfer has its own outcome, and a failed first
one does not stop the second. For every pair of answers the status is the code of the last transfer that succeeded, unchanged where
none did, both external calls are made, and there is one signal for each success. -/
def Obligations.DualTriggerTransfersHaveTheirOwnOutcomes : Prop :=
  ∀ (dt : DualTrigger) (first second : Direction) (v : Word) (s : State) (a b : ExtAnswer) (rest : List ExtAnswer),
    v.getLsbD 0 = true → v.getLsbD 1 = true → dualDirections dt = [first, second] → InBounds .read s → InBounds .write s →
    s.extAnswers = a :: b :: rest →
    ∃ t es, commandWrite dt v s = .next t ∧ t.events = s.events ++ es ∧ es.filterMap eventDirection = [first, second] ∧
      t.reg .status = (if b ≠ .fail then Direction.code second else if a ≠ .fail then Direction.code first else s.reg .status) ∧
      (es.filter isSignal).length = (if a ≠ .fail then 1 else 0) + (if b ≠ .fail then 1 else 0) ∧
      t.reg .command = 0 ∧ t.extAnswers = rest

/-- R101 (the spec's decision D12): in the settings `ReadOnly` and `WriteOnly`, with both trigger bits set and the transfer in bounds,
the command write does exactly what a command write of that one bit does. -/
def Obligations.SingleTransferSettingsActAsThatBitAlone : Prop :=
  ∀ (dt : DualTrigger) (dir : Direction) (w : Width) (v : Word) (s : State), v.getLsbD 0 = true → v.getLsbD 1 = true →
    dualDirections dt = [dir] → InBounds dir s →
    commandWrite dt v s = exec (.wrCmd w ((Direction.code dir).setWidth 64)) s

/-! ### What the buffer can reach, over steps -/

/-- 10_state.md R29: two states that agree in all but the buffer and the bytes that external writes have carried still do after a step,
whatever the host's move is. The relation is the same before and after, so it holds over runs. -/
def Obligations.EveryStepKeepsTheBufferHidden : Prop :=
  ∀ (s s' t : State), AgreeButBuffer s s' → step s = .next t → ∃ t', step s' = .next t' ∧ AgreeButBuffer t t'
end

