-- ==== Sys2Proof/Laws/Decode.lean ====
section
/-! SUPPORT. The small laws of the decoder and the encoder: fields of a packed descriptor, the address decoder, widths, lanes. -/

namespace Sys2Proof

/-! ### Fields of a packed descriptor -/

/-- Each bit of a packed descriptor (30_encoding.md R80). -/
theorem getLsbD_packDesc (d : Bool) (z : BitVec 2) (o : Offset) (i : Nat) :
    (packDesc d z o).getLsbD i =
      if i < 12 then o.getLsbD i else if i < 14 then z.getLsbD (i - 12) else decide (i = 14) && d := by
  show BitVec.getLsbD (w := 1 + 1 + 2 + 12) (0#1 ++ BitVec.ofBool d ++ z ++ o) i = _
  rw [BitVec.getLsbD_append, BitVec.getLsbD_append, BitVec.getLsbD_append]
  by_cases h0 : i < 12
  · simp [h0]
  · by_cases h1 : i < 14
    · have h2 : i - 12 < 2 := by omega
      simp [h0, h1, h2]
    · by_cases h2 : i = 14
      · subst h2
        simp
      · have h3 : ¬ i - 12 < 2 := by omega
        have h4 : ¬ i - 12 - 2 < 1 := by omega
        simp [h0, h1, h2, h3, h4]

@[simp] theorem descOff_packDesc (d : Bool) (z : BitVec 2) (o : Offset) : descOff (packDesc d z o) = o := by
  unfold descOff
  ext i hi
  rw [BitVec.getElem_extractLsb', getLsbD_packDesc, if_pos (by omega), Nat.zero_add, BitVec.getLsbD_eq_getElem hi]

@[simp] theorem descSz_packDesc (d : Bool) (z : BitVec 2) (o : Offset) : descSz (packDesc d z o) = z := by
  unfold descSz
  ext i hi
  rw [BitVec.getElem_extractLsb', getLsbD_packDesc, if_neg (by omega), if_pos (by omega), Nat.add_sub_cancel_left,
    BitVec.getLsbD_eq_getElem hi]

@[simp] theorem descDir_packDesc (d : Bool) (z : BitVec 2) (o : Offset) : descDir (packDesc d z o) = d := by
  unfold descDir
  rw [getLsbD_packDesc]
  simp

@[simp] theorem descRsv_packDesc (d : Bool) (z : BitVec 2) (o : Offset) : descRsv (packDesc d z o) = false := by
  unfold descRsv
  rw [getLsbD_packDesc]
  simp

/-- A descriptor without the reserved bit is packed from its fields. -/
theorem packDesc_fields {t : BitVec 16} (h : descRsv t = false) : packDesc (descDir t) (descSz t) (descOff t) = t := by
  apply BitVec.eq_of_getLsbD_eq
  intro i hi
  rw [getLsbD_packDesc]
  unfold descDir descSz descOff
  unfold descRsv at h
  rw [BitVec.getLsbD_extractLsb', BitVec.getLsbD_extractLsb']
  by_cases h0 : i < 12
  · simp [h0]
  · by_cases h1 : i < 14
    · have e : 12 + (i - 12) = i := by omega
      have h2 : i - 12 < 2 := by omega
      simp [h0, h1, h2, e]
    · by_cases h2 : i = 14
      · subst h2
        simp
      · have h3 : i = 15 := by omega
        subst h3
        simpa using h.symm

/-! ### The address decoder -/

@[simp] theorem regAt_offset (r : Reg) : regAt r.offset = some r := by cases r <;> rfl

/-- The address decoder answers a register at its own offset only. -/
theorem offset_of_regAt {off : Offset} {r : Reg} (h : regAt off = some r) : off = r.offset := by
  unfold regAt at h
  repeat' split at h
  all_goals first | (injection h with h; subst h; assumption) | cases h

/-- The mapped offsets of the well-formedness check are those of the address decoder. -/
theorem regAt_eq_none_iff (off : Offset) : regAt off = none ↔ isMapped off = false := by
  unfold regAt isMapped mappedOffsets
  simp only [List.mem_cons, List.not_mem_nil, or_false, decide_eq_false_iff_not, not_or]
  repeat' split
  all_goals simp_all

@[simp] theorem widthOf_code (w : Width) : widthOf w.code = some w := by cases w <;> rfl
@[simp] theorem widthOf_three : widthOf 3#2 = none := rfl

theorem code_of_widthOf {z : BitVec 2} {w : Width} (h : widthOf z = some w) : z = w.code := by
  unfold widthOf at h
  repeat' split at h
  all_goals first | (injection h with h; subst h; assumption) | cases h

theorem eq_three_of_widthOf {z : BitVec 2} (h : widthOf z = none) : z = 3 := by
  revert h
  revert z
  decide

/-! ### Lanes -/

/-- Putting a lane below the lanes above it gives the whole. -/
theorem append_extractLsb'_split {w : Nat} (x : BitVec w) (k n m : Nat) :
    (x.extractLsb' (k + n) m ++ x.extractLsb' k n) = x.extractLsb' k (m + n) := by
  apply BitVec.eq_of_getLsbD_eq
  intro i hi
  rw [BitVec.getLsbD_append, BitVec.getLsbD_extractLsb', BitVec.getLsbD_extractLsb', BitVec.getLsbD_extractLsb']
  by_cases h0 : i < n
  · have h1 : i < m + n := by omega
    simp [h0, h1]
  · have e : k + n + (i - n) = k + i := by omega
    have h1 : i - n < m := by omega
    simp [h0, h1, hi, e]

/-- The two bytes of a descriptor spell it. -/
@[simp] theorem descOfBytes_lanes (t : BitVec 16) : descOfBytes (t.extractLsb' 0 8) (t.extractLsb' 8 8) = t := by
  unfold descOfBytes
  have h := append_extractLsb'_split t 0 8 8
  rw [Nat.zero_add] at h
  exact h.trans (BitVec.extractLsb'_eq_self)

/-- The eight lanes of a data operand spell it. -/
@[simp] theorem dataOfBytes_lanes (v : Data) :
    dataOfBytes (laneByte v 0) (laneByte v 1) (laneByte v 2) (laneByte v 3) (laneByte v 4) (laneByte v 5) (laneByte v 6)
      (laneByte v 7) = v := by
  unfold dataOfBytes laneByte
  rw [append_extractLsb'_split v 48 8 8, append_extractLsb'_split v 40 8 16, append_extractLsb'_split v 32 8 24,
    append_extractLsb'_split v 24 8 32, append_extractLsb'_split v 16 8 40, append_extractLsb'_split v 8 8 48,
    append_extractLsb'_split v 0 8 56]
  exact BitVec.extractLsb'_eq_self

/-! ### Decoding a packed descriptor -/

theorem decodeTxn_packDesc_read (w : Width) (off : Offset) (wdata : Data) :
    decodeTxn (packDesc false w.code off) wdata = .ok (decodeRead w off) := by
  simp [decodeTxn]

theorem decodeTxn_packDesc_write {w : Width} (off : Offset) {wdata : Data} (h : w.fits wdata = true) :
    decodeTxn (packDesc true w.code off) wdata = .ok (decodeWrite w off wdata) := by
  simp [decodeTxn, h]

theorem decodeTxn_packDesc_wide (dir : Bool) (off : Offset) (wdata : Data) :
    decodeTxn (packDesc dir 3 off) wdata = .ok (if dir then .wrWide off wdata else .rdWide off) := by
  simp [decodeTxn]

theorem decodeRead_unmapped (w : Width) {off : Offset} (h : isMapped off = false) :
    decodeRead w off = .rdUnmapped w off := by
  simp [decodeRead, (regAt_eq_none_iff off).mpr h]

theorem decodeWrite_unmapped (w : Width) {off : Offset} (wdata : Data) (h : isMapped off = false) :
    decodeWrite w off wdata = .wrUnmapped w off wdata := by
  simp [decodeWrite, (regAt_eq_none_iff off).mpr h]

@[simp] theorem decodeRead_offset (w : Width) (r : Reg) : decodeRead w r.offset = readOf w r := by
  simp [decodeRead]

@[simp] theorem decodeWrite_offset (w : Width) (r : Reg) (wdata : Data) :
    decodeWrite w r.offset wdata = writeOf w wdata r := by
  simp [decodeWrite]

end Sys2Proof
end

