-- ==== Sys2Proof/Laws/Memory.lean ====
section
/-! SUPPORT. The local buffer's list: reads after writes, and the canonical form. -/

namespace Sys2Proof.Machine

open Sys2Proof

@[simp] theorem Memory.read_nil (a : Nat) : Memory.read [] a = none := rfl

/-- A byte just written reads back, and (next lemma) every other offset reads as before, in every list, canonical or not. -/
theorem Memory.read_write_same (m : Memory) (a : Nat) (b : Byte) : Memory.read (Memory.write m a b) a = some b := by
  induction m with
  | nil => simp [Memory.write, Memory.read]
  | cons c rest ih =>
    obtain ⟨k, v⟩ := c
    unfold Memory.write
    split
    · simp [Memory.read]
    · split
      · simp [Memory.read]
      · rename_i h
        simp [Memory.read, Ne.symm h, ih]

theorem Memory.read_write_other (m : Memory) {a c : Nat} (b : Byte) (h : c ≠ a) :
    Memory.read (Memory.write m a b) c = Memory.read m c := by
  induction m with
  | nil => simp [Memory.write, Memory.read, Ne.symm h]
  | cons p rest ih =>
    obtain ⟨k, v⟩ := p
    unfold Memory.write
    split
    · simp [Memory.read, Ne.symm h]
    · split
      · rename_i hk
        subst hk
        simp [Memory.read, Ne.symm h]
      · simp [Memory.read, ih]

/-- Reading after a run of bytes is written: inside the run the byte of that place, outside it as before. -/
theorem Memory.read_writeBytes (bytes : List Byte) (m : Memory) (a c : Nat) :
    Memory.read (Memory.writeBytes m a bytes) c =
      if a ≤ c ∧ c < a + bytes.length then bytes[c - a]? else Memory.read m c := by
  induction bytes generalizing m a with
  | nil => simp [Memory.writeBytes]
  | cons b rest ih =>
    simp only [Memory.writeBytes, ih, List.length_cons]
    by_cases hc : c = a
    · subst hc
      rw [if_neg (by omega), if_pos (by omega), Memory.read_write_same]
      simp
    · by_cases hin : a + 1 ≤ c ∧ c < a + 1 + rest.length
      · rw [if_pos hin, if_pos (by omega)]
        obtain ⟨d, hd⟩ : ∃ d, c - a = d + 1 := ⟨c - a - 1, by omega⟩
        rw [hd, List.getElem?_cons_succ]
        congr 1
        omega
      · rw [if_neg hin, if_neg (by omega), Memory.read_write_other m b hc]

/-- A write below the buffer's end keeps a sorted list sorted. -/
theorem Memory.sortedFrom_write (m : Memory) {lo a : Nat} (b : Byte) (hlo : lo ≤ a) (ha : a < bufSize)
    (h : Memory.sortedFrom lo m = true) : Memory.sortedFrom lo (Memory.write m a b) = true := by
  induction m generalizing lo with
  | nil => simp [Memory.write, Memory.sortedFrom, hlo, ha]
  | cons p rest ih =>
    obtain ⟨k, v⟩ := p
    simp only [Memory.sortedFrom, Bool.and_eq_true, decide_eq_true_eq] at h
    obtain ⟨⟨hk, hk'⟩, hr⟩ := h
    unfold Memory.write
    split
    · rename_i hak
      simp only [Memory.sortedFrom, Bool.and_eq_true, decide_eq_true_eq]
      exact ⟨⟨hlo, ha⟩, ⟨by omega, hk'⟩, hr⟩
    · split
      · rename_i hak
        subst hak
        simp only [Memory.sortedFrom, Bool.and_eq_true, decide_eq_true_eq]
        exact ⟨⟨hlo, ha⟩, hr⟩
      · simp only [Memory.sortedFrom, Bool.and_eq_true, decide_eq_true_eq]
        exact ⟨⟨hk, hk'⟩, ih (by omega) hr⟩

/-- Every write within the buffer keeps the canonical form. -/
theorem Memory.wf_write {m : Memory} {a : Nat} (b : Byte) (ha : a < bufSize) (h : Memory.wf m = true) :
    Memory.wf (Memory.write m a b) = true := Memory.sortedFrom_write m b (Nat.zero_le a) ha h

/-- Writing bytes within the buffer keeps the canonical form. -/
theorem Memory.wf_writeBytes (bytes : List Byte) {m : Memory} {a : Nat} (ha : a + bytes.length ≤ bufSize)
    (h : Memory.wf m = true) : Memory.wf (Memory.writeBytes m a bytes) = true := by
  induction bytes generalizing m a with
  | nil => exact h
  | cons b rest ih =>
    simp only [List.length_cons] at ha
    exact ih (by omega) (Memory.wf_write b (by omega) h)

theorem Memory.wf_nil : Memory.wf [] = true := rfl

/-! ### Reading one byte of the buffer -/

theorem State.bufByte_of_localBuffer {s t : State} (h : s.localBuffer = t.localBuffer) (a : Nat) :
    s.bufByte a = t.bufByte a := by
  unfold State.bufByte
  rw [h]

/-- Copying bytes in: byte `i` lands at `loc + i`. -/
theorem State.bufByte_copyIn_in (s : State) (loc : Nat) (bytes : List Byte) (i : Nat) (h : i < bytes.length) :
    (s.copyIn loc bytes).bufByte (loc + i) = bytes[i] := by
  unfold State.bufByte State.copyIn
  rw [Memory.read_writeBytes, if_pos (by omega)]
  simp [h]

/-- Copying bytes in leaves every byte outside their range. -/
theorem State.bufByte_copyIn_out (s : State) (loc : Nat) (bytes : List Byte) (a : Nat)
    (h : ¬ (loc ≤ a ∧ a < loc + bytes.length)) : (s.copyIn loc bytes).bufByte a = s.bufByte a := by
  unfold State.bufByte State.copyIn
  rw [Memory.read_writeBytes, if_neg h]

@[simp] theorem State.length_bufBytes (s : State) (loc n : Nat) : (s.bufBytes loc n).length = n := by
  simp [State.bufBytes]

theorem State.getElem_bufBytes (s : State) (loc n i : Nat) (h : i < (s.bufBytes loc n).length) :
    (s.bufBytes loc n)[i] = s.bufByte (loc + i) := by
  simp [State.bufBytes]

@[simp] theorem length_fillBytes (k n : Nat) (bytes : List Byte) : (fillBytes k n bytes).length = n := by
  simp [fillBytes]

end Sys2Proof.Machine
end

