-- ==== Sys2Proof/Laws/State.lean ====
section
/-! SUPPORT. One lemma for each component of the state and each named update: what the update leaves there. -/

namespace Sys2Proof.Machine

open Sys2Proof

/-! ### Reading the register just written, and any other -/

theorem State.setReg_reg (s : State) (r : Reg) (v : Word) (q : Reg) :
    (s.setReg r v).reg q = if q = r then v else s.reg q := by
  cases r <;> cases q <;> rfl

@[simp] theorem State.setReg_reg_same (s : State) (r : Reg) (v : Word) : (s.setReg r v).reg r = v := by
  cases r <;> rfl

theorem State.setReg_reg_other (s : State) {r q : Reg} (v : Word) (h : q ≠ r) : (s.setReg r v).reg q = s.reg q := by
  rw [State.setReg_reg, if_neg h]

/-- A state is its registers and its other components. -/
theorem State.ext_reg {s t : State} (hr : ∀ q, s.reg q = t.reg q) (hb : s.localBuffer = t.localBuffer)
    (hc : s.vectorTurnCounter = t.vectorTurnCounter) (hl : s.intxLevel = t.intxLevel) (hf : s.faulted = t.faulted)
    (hd : s.refused = t.refused) (hm : s.mode = t.mode) (ha : s.extAnswers = t.extAnswers) (hp : s.pending = t.pending)
    (hs : s.response = t.response) (he : s.events = t.events) (hk : s.draws = t.draws) : s = t := by
  have h0 := hr .command; have h1 := hr .srcLow; have h2 := hr .srcHigh; have h3 := hr .dstLow
  have h4 := hr .dstHigh; have h5 := hr .size; have h6 := hr .status; have h7 := hr .scratch
  cases s; cases t
  simp only [State.reg] at h0 h1 h2 h3 h4 h5 h6 h7
  simp_all

/-! ### `setReg` -/

@[simp] theorem State.setReg_localBuffer (s : State) (r : Reg) (v : Word) : (s.setReg r v).localBuffer = s.localBuffer := by cases r <;> rfl
@[simp] theorem State.setReg_vectorTurnCounter (s : State) (r : Reg) (v : Word) : (s.setReg r v).vectorTurnCounter = s.vectorTurnCounter := by cases r <;> rfl
@[simp] theorem State.setReg_intxLevel (s : State) (r : Reg) (v : Word) : (s.setReg r v).intxLevel = s.intxLevel := by cases r <;> rfl
@[simp] theorem State.setReg_faulted (s : State) (r : Reg) (v : Word) : (s.setReg r v).faulted = s.faulted := by cases r <;> rfl
@[simp] theorem State.setReg_refused (s : State) (r : Reg) (v : Word) : (s.setReg r v).refused = s.refused := by cases r <;> rfl
@[simp] theorem State.setReg_mode (s : State) (r : Reg) (v : Word) : (s.setReg r v).mode = s.mode := by cases r <;> rfl
@[simp] theorem State.setReg_extAnswers (s : State) (r : Reg) (v : Word) : (s.setReg r v).extAnswers = s.extAnswers := by cases r <;> rfl
@[simp] theorem State.setReg_pending (s : State) (r : Reg) (v : Word) : (s.setReg r v).pending = s.pending := by cases r <;> rfl
@[simp] theorem State.setReg_response (s : State) (r : Reg) (v : Word) : (s.setReg r v).response = s.response := by cases r <;> rfl
@[simp] theorem State.setReg_events (s : State) (r : Reg) (v : Word) : (s.setReg r v).events = s.events := by cases r <;> rfl
@[simp] theorem State.setReg_draws (s : State) (r : Reg) (v : Word) : (s.setReg r v).draws = s.draws := by cases r <;> rfl

/-! ### `copyIn` -/

@[simp] theorem State.copyIn_reg (s : State) (loc : Nat) (bytes : List Byte) (q : Reg) : (s.copyIn loc bytes).reg q = s.reg q := by cases q <;> rfl
@[simp] theorem State.copyIn_localBuffer (s : State) (loc : Nat) (bytes : List Byte) : (s.copyIn loc bytes).localBuffer = Memory.writeBytes s.localBuffer loc bytes := rfl
@[simp] theorem State.copyIn_vectorTurnCounter (s : State) (loc : Nat) (bytes : List Byte) : (s.copyIn loc bytes).vectorTurnCounter = s.vectorTurnCounter := rfl
@[simp] theorem State.copyIn_intxLevel (s : State) (loc : Nat) (bytes : List Byte) : (s.copyIn loc bytes).intxLevel = s.intxLevel := rfl
@[simp] theorem State.copyIn_faulted (s : State) (loc : Nat) (bytes : List Byte) : (s.copyIn loc bytes).faulted = s.faulted := rfl
@[simp] theorem State.copyIn_refused (s : State) (loc : Nat) (bytes : List Byte) : (s.copyIn loc bytes).refused = s.refused := rfl
@[simp] theorem State.copyIn_mode (s : State) (loc : Nat) (bytes : List Byte) : (s.copyIn loc bytes).mode = s.mode := rfl
@[simp] theorem State.copyIn_extAnswers (s : State) (loc : Nat) (bytes : List Byte) : (s.copyIn loc bytes).extAnswers = s.extAnswers := rfl
@[simp] theorem State.copyIn_pending (s : State) (loc : Nat) (bytes : List Byte) : (s.copyIn loc bytes).pending = s.pending := rfl
@[simp] theorem State.copyIn_response (s : State) (loc : Nat) (bytes : List Byte) : (s.copyIn loc bytes).response = s.response := rfl
@[simp] theorem State.copyIn_events (s : State) (loc : Nat) (bytes : List Byte) : (s.copyIn loc bytes).events = s.events := rfl
@[simp] theorem State.copyIn_draws (s : State) (loc : Nat) (bytes : List Byte) : (s.copyIn loc bytes).draws = s.draws := rfl

/-! ### `emit` -/

@[simp] theorem State.emit_reg (s : State) (e : Event) (q : Reg) : (s.emit e).reg q = s.reg q := by cases q <;> rfl
@[simp] theorem State.emit_localBuffer (s : State) (e : Event) : (s.emit e).localBuffer = s.localBuffer := rfl
@[simp] theorem State.emit_vectorTurnCounter (s : State) (e : Event) : (s.emit e).vectorTurnCounter = s.vectorTurnCounter := rfl
@[simp] theorem State.emit_intxLevel (s : State) (e : Event) : (s.emit e).intxLevel = s.intxLevel := rfl
@[simp] theorem State.emit_faulted (s : State) (e : Event) : (s.emit e).faulted = s.faulted := rfl
@[simp] theorem State.emit_refused (s : State) (e : Event) : (s.emit e).refused = s.refused := rfl
@[simp] theorem State.emit_mode (s : State) (e : Event) : (s.emit e).mode = s.mode := rfl
@[simp] theorem State.emit_extAnswers (s : State) (e : Event) : (s.emit e).extAnswers = s.extAnswers := rfl
@[simp] theorem State.emit_pending (s : State) (e : Event) : (s.emit e).pending = s.pending := rfl
@[simp] theorem State.emit_response (s : State) (e : Event) : (s.emit e).response = s.response := rfl
@[simp] theorem State.emit_events (s : State) (e : Event) : (s.emit e).events = s.events ++ [e] := rfl
@[simp] theorem State.emit_draws (s : State) (e : Event) : (s.emit e).draws = s.draws := rfl

/-! ### `setLine` -/

@[simp] theorem State.setLine_reg (s : State) (b : Bool) (q : Reg) : (s.setLine b).reg q = s.reg q := by cases q <;> rfl
@[simp] theorem State.setLine_localBuffer (s : State) (b : Bool) : (s.setLine b).localBuffer = s.localBuffer := rfl
@[simp] theorem State.setLine_vectorTurnCounter (s : State) (b : Bool) : (s.setLine b).vectorTurnCounter = s.vectorTurnCounter := rfl
@[simp] theorem State.setLine_intxLevel (s : State) (b : Bool) : (s.setLine b).intxLevel = b := rfl
@[simp] theorem State.setLine_faulted (s : State) (b : Bool) : (s.setLine b).faulted = s.faulted := rfl
@[simp] theorem State.setLine_refused (s : State) (b : Bool) : (s.setLine b).refused = s.refused := rfl
@[simp] theorem State.setLine_mode (s : State) (b : Bool) : (s.setLine b).mode = s.mode := rfl
@[simp] theorem State.setLine_extAnswers (s : State) (b : Bool) : (s.setLine b).extAnswers = s.extAnswers := rfl
@[simp] theorem State.setLine_pending (s : State) (b : Bool) : (s.setLine b).pending = s.pending := rfl
@[simp] theorem State.setLine_response (s : State) (b : Bool) : (s.setLine b).response = s.response := rfl
@[simp] theorem State.setLine_events (s : State) (b : Bool) : (s.setLine b).events = s.events ++ [.line b] := rfl
@[simp] theorem State.setLine_draws (s : State) (b : Bool) : (s.setLine b).draws = s.draws := rfl

/-! ### `respond` -/

@[simp] theorem State.respond_reg (s : State) (p : Response) (q : Reg) : (s.respond p).reg q = s.reg q := by cases q <;> rfl
@[simp] theorem State.respond_localBuffer (s : State) (p : Response) : (s.respond p).localBuffer = s.localBuffer := rfl
@[simp] theorem State.respond_vectorTurnCounter (s : State) (p : Response) : (s.respond p).vectorTurnCounter = s.vectorTurnCounter := rfl
@[simp] theorem State.respond_intxLevel (s : State) (p : Response) : (s.respond p).intxLevel = s.intxLevel := rfl
@[simp] theorem State.respond_faulted (s : State) (p : Response) : (s.respond p).faulted = s.faulted := rfl
@[simp] theorem State.respond_refused (s : State) (p : Response) : (s.respond p).refused = s.refused := rfl
@[simp] theorem State.respond_mode (s : State) (p : Response) : (s.respond p).mode = s.mode := rfl
@[simp] theorem State.respond_extAnswers (s : State) (p : Response) : (s.respond p).extAnswers = s.extAnswers := rfl
@[simp] theorem State.respond_pending (s : State) (p : Response) : (s.respond p).pending = s.pending := rfl
@[simp] theorem State.respond_response (s : State) (p : Response) : (s.respond p).response = some p := rfl
@[simp] theorem State.respond_events (s : State) (p : Response) : (s.respond p).events = s.events := rfl
@[simp] theorem State.respond_draws (s : State) (p : Response) : (s.respond p).draws = s.draws := rfl

/-! ### `noResponse` -/

@[simp] theorem State.noResponse_reg (s : State) (q : Reg) : (s.noResponse).reg q = s.reg q := by cases q <;> rfl
@[simp] theorem State.noResponse_localBuffer (s : State) : (s.noResponse).localBuffer = s.localBuffer := rfl
@[simp] theorem State.noResponse_vectorTurnCounter (s : State) : (s.noResponse).vectorTurnCounter = s.vectorTurnCounter := rfl
@[simp] theorem State.noResponse_intxLevel (s : State) : (s.noResponse).intxLevel = s.intxLevel := rfl
@[simp] theorem State.noResponse_faulted (s : State) : (s.noResponse).faulted = s.faulted := rfl
@[simp] theorem State.noResponse_refused (s : State) : (s.noResponse).refused = s.refused := rfl
@[simp] theorem State.noResponse_mode (s : State) : (s.noResponse).mode = s.mode := rfl
@[simp] theorem State.noResponse_extAnswers (s : State) : (s.noResponse).extAnswers = s.extAnswers := rfl
@[simp] theorem State.noResponse_pending (s : State) : (s.noResponse).pending = s.pending := rfl
@[simp] theorem State.noResponse_response (s : State) : (s.noResponse).response = none := rfl
@[simp] theorem State.noResponse_events (s : State) : (s.noResponse).events = s.events := rfl
@[simp] theorem State.noResponse_draws (s : State) : (s.noResponse).draws = s.draws := rfl

/-! ### `useAnswer` -/

@[simp] theorem State.useAnswer_reg (s : State) (q : Reg) : (s.useAnswer).reg q = s.reg q := by cases q <;> rfl
@[simp] theorem State.useAnswer_localBuffer (s : State) : (s.useAnswer).localBuffer = s.localBuffer := rfl
@[simp] theorem State.useAnswer_vectorTurnCounter (s : State) : (s.useAnswer).vectorTurnCounter = s.vectorTurnCounter := rfl
@[simp] theorem State.useAnswer_intxLevel (s : State) : (s.useAnswer).intxLevel = s.intxLevel := rfl
@[simp] theorem State.useAnswer_faulted (s : State) : (s.useAnswer).faulted = s.faulted := rfl
@[simp] theorem State.useAnswer_refused (s : State) : (s.useAnswer).refused = s.refused := rfl
@[simp] theorem State.useAnswer_mode (s : State) : (s.useAnswer).mode = s.mode := rfl
@[simp] theorem State.useAnswer_extAnswers (s : State) : (s.useAnswer).extAnswers = s.extAnswers.tail := rfl
@[simp] theorem State.useAnswer_pending (s : State) : (s.useAnswer).pending = s.pending := rfl
@[simp] theorem State.useAnswer_response (s : State) : (s.useAnswer).response = s.response := rfl
@[simp] theorem State.useAnswer_events (s : State) : (s.useAnswer).events = s.events := rfl
@[simp] theorem State.useAnswer_draws (s : State) : (s.useAnswer).draws = s.draws + 1 := rfl

/-! ### `useDraw` -/

@[simp] theorem State.useDraw_reg (s : State) (q : Reg) : (s.useDraw).reg q = s.reg q := by cases q <;> rfl
@[simp] theorem State.useDraw_localBuffer (s : State) : (s.useDraw).localBuffer = s.localBuffer := rfl
@[simp] theorem State.useDraw_vectorTurnCounter (s : State) : (s.useDraw).vectorTurnCounter = s.vectorTurnCounter := rfl
@[simp] theorem State.useDraw_intxLevel (s : State) : (s.useDraw).intxLevel = s.intxLevel := rfl
@[simp] theorem State.useDraw_faulted (s : State) : (s.useDraw).faulted = s.faulted := rfl
@[simp] theorem State.useDraw_refused (s : State) : (s.useDraw).refused = s.refused := rfl
@[simp] theorem State.useDraw_mode (s : State) : (s.useDraw).mode = s.mode := rfl
@[simp] theorem State.useDraw_extAnswers (s : State) : (s.useDraw).extAnswers = s.extAnswers := rfl
@[simp] theorem State.useDraw_pending (s : State) : (s.useDraw).pending = s.pending := rfl
@[simp] theorem State.useDraw_response (s : State) : (s.useDraw).response = s.response := rfl
@[simp] theorem State.useDraw_events (s : State) : (s.useDraw).events = s.events := rfl
@[simp] theorem State.useDraw_draws (s : State) : (s.useDraw).draws = s.draws + 1 := rfl

/-! ### `dropMove` -/

@[simp] theorem State.dropMove_reg (s : State) (q : Reg) : (s.dropMove).reg q = s.reg q := by cases q <;> rfl
@[simp] theorem State.dropMove_localBuffer (s : State) : (s.dropMove).localBuffer = s.localBuffer := rfl
@[simp] theorem State.dropMove_vectorTurnCounter (s : State) : (s.dropMove).vectorTurnCounter = s.vectorTurnCounter := rfl
@[simp] theorem State.dropMove_intxLevel (s : State) : (s.dropMove).intxLevel = s.intxLevel := rfl
@[simp] theorem State.dropMove_faulted (s : State) : (s.dropMove).faulted = s.faulted := rfl
@[simp] theorem State.dropMove_refused (s : State) : (s.dropMove).refused = s.refused := rfl
@[simp] theorem State.dropMove_mode (s : State) : (s.dropMove).mode = s.mode := rfl
@[simp] theorem State.dropMove_extAnswers (s : State) : (s.dropMove).extAnswers = s.extAnswers := rfl
@[simp] theorem State.dropMove_pending (s : State) : (s.dropMove).pending = s.pending.tail := rfl
@[simp] theorem State.dropMove_response (s : State) : (s.dropMove).response = s.response := rfl
@[simp] theorem State.dropMove_events (s : State) : (s.dropMove).events = s.events := rfl
@[simp] theorem State.dropMove_draws (s : State) : (s.dropMove).draws = s.draws := rfl

/-! ### `changeMode` -/

@[simp] theorem State.changeMode_reg (s : State) (m : Mode) (q : Reg) : (s.changeMode m).reg q = s.reg q := by cases q <;> rfl
@[simp] theorem State.changeMode_localBuffer (s : State) (m : Mode) : (s.changeMode m).localBuffer = s.localBuffer := rfl
@[simp] theorem State.changeMode_vectorTurnCounter (s : State) (m : Mode) : (s.changeMode m).vectorTurnCounter = s.vectorTurnCounter := rfl
@[simp] theorem State.changeMode_intxLevel (s : State) (m : Mode) : (s.changeMode m).intxLevel = s.intxLevel := rfl
@[simp] theorem State.changeMode_faulted (s : State) (m : Mode) : (s.changeMode m).faulted = s.faulted := rfl
@[simp] theorem State.changeMode_refused (s : State) (m : Mode) : (s.changeMode m).refused = s.refused := rfl
@[simp] theorem State.changeMode_mode (s : State) (m : Mode) : (s.changeMode m).mode = m := rfl
@[simp] theorem State.changeMode_extAnswers (s : State) (m : Mode) : (s.changeMode m).extAnswers = s.extAnswers := rfl
@[simp] theorem State.changeMode_pending (s : State) (m : Mode) : (s.changeMode m).pending = s.pending := rfl
@[simp] theorem State.changeMode_response (s : State) (m : Mode) : (s.changeMode m).response = s.response := rfl
@[simp] theorem State.changeMode_events (s : State) (m : Mode) : (s.changeMode m).events = s.events := rfl
@[simp] theorem State.changeMode_draws (s : State) (m : Mode) : (s.changeMode m).draws = s.draws := rfl

/-! ### `setStatus` -/

@[simp] theorem State.setStatus_localBuffer (s : State) (dir : Direction) : (s.setStatus dir).localBuffer = s.localBuffer := rfl
@[simp] theorem State.setStatus_vectorTurnCounter (s : State) (dir : Direction) : (s.setStatus dir).vectorTurnCounter = s.vectorTurnCounter := rfl
@[simp] theorem State.setStatus_intxLevel (s : State) (dir : Direction) : (s.setStatus dir).intxLevel = s.intxLevel := rfl
@[simp] theorem State.setStatus_faulted (s : State) (dir : Direction) : (s.setStatus dir).faulted = s.faulted := rfl
@[simp] theorem State.setStatus_refused (s : State) (dir : Direction) : (s.setStatus dir).refused = s.refused := rfl
@[simp] theorem State.setStatus_mode (s : State) (dir : Direction) : (s.setStatus dir).mode = s.mode := rfl
@[simp] theorem State.setStatus_extAnswers (s : State) (dir : Direction) : (s.setStatus dir).extAnswers = s.extAnswers := rfl
@[simp] theorem State.setStatus_pending (s : State) (dir : Direction) : (s.setStatus dir).pending = s.pending := rfl
@[simp] theorem State.setStatus_response (s : State) (dir : Direction) : (s.setStatus dir).response = s.response := rfl
@[simp] theorem State.setStatus_events (s : State) (dir : Direction) : (s.setStatus dir).events = s.events := rfl
@[simp] theorem State.setStatus_draws (s : State) (dir : Direction) : (s.setStatus dir).draws = s.draws := rfl

/-! ### `setStatus` on the registers -/

theorem State.setStatus_reg (s : State) (dir : Direction) (q : Reg) :
    (s.setStatus dir).reg q = if q = .status then Direction.code dir else s.reg q := State.setReg_reg s .status _ q

end Sys2Proof.Machine
end

