-- ==== Sys2Proof/Laws/Ops.lean ====
section
/-! SUPPORT. What each shared operation can do, said once: sequencing, the external port, the dispatcher, a transfer, `dma`. -/

namespace Sys2Proof.Machine

open Sys2Proof

/-! ### Sequencing -/

@[simp] theorem andThen_next (s : State) (f : State → Result) : andThen (.next s) f = f s := rfl
@[simp] theorem andThen_fault (r : Fault) (f : State → Result) : andThen (.fault r) f = .fault r := rfl
@[simp] theorem andThen_refused (r : Refusal) (f : State → Result) : andThen (.refused r) f = .refused r := rfl

/-- A sequence ends in a next state only through a next state of its first part. -/
theorem andThen_eq_next {o : Result} {f : State → Result} {t : State} (h : andThen o f = .next t) :
    ∃ u, o = .next u ∧ f u = .next t := by
  cases o with
  | next u => exact ⟨u, rfl, h⟩
  | fault r => cases h
  | refused r => cases h

/-! ### The external-memory port -/

theorem State.memRead_eq (s : State) (addr : Addr) (n : Word) :
    s.memRead addr n = s.useAnswer.emit (.extRead addr n (s.readResult n)) := rfl

theorem State.memWrite_eq (s : State) (addr : Addr) (n : Word) (bytes : List Byte) :
    s.memWrite addr n bytes = s.useAnswer.emit (.extWrite addr n bytes s.writeResult) := rfl

/-- A successful read gives exactly as many bytes as asked. -/
theorem State.length_of_readResult {s : State} {n : Word} {bytes : List Byte} (h : s.readResult n = .ok bytes) :
    bytes.length = n.toNat := by
  unfold State.readResult at h
  split at h
  · injection h with h
    subst h
    simp
  · cases h

theorem State.readResult_fail {s : State} (n : Word) (h : s.nextAnswer = .fail) : s.readResult n = .fail := by
  simp [State.readResult, h]

theorem State.writeResult_fail {s : State} (h : s.nextAnswer = .fail) : s.writeResult = false := by
  simp [State.writeResult, h]

/-! ### The dispatcher -/

/-- Everything a dispatch does (42_interrupt_dispatcher.md R171 to R175). -/
theorem dispatch_eq (s : State) :
    dispatch s = { s with
      vectorTurnCounter := counterAfter s.mode s.vectorTurnCounter
      intxLevel := lineAfter s.mode s.intxLevel
      events := s.events ++ [signalOf s.mode s.vectorTurnCounter] } := by
  cases s with
  | mk c sl sh dl dh n st sc b v x f r m a p rs ev d => cases m <;> rfl

@[simp] theorem dispatch_reg (s : State) (q : Reg) : (dispatch s).reg q = s.reg q := by
  rw [dispatch_eq]
  cases q <;> rfl

@[simp] theorem dispatch_localBuffer (s : State) : (dispatch s).localBuffer = s.localBuffer := by rw [dispatch_eq]
@[simp] theorem dispatch_vectorTurnCounter (s : State) :
    (dispatch s).vectorTurnCounter = counterAfter s.mode s.vectorTurnCounter := by rw [dispatch_eq]
@[simp] theorem dispatch_intxLevel (s : State) : (dispatch s).intxLevel = lineAfter s.mode s.intxLevel := by rw [dispatch_eq]
@[simp] theorem dispatch_faulted (s : State) : (dispatch s).faulted = s.faulted := by rw [dispatch_eq]
@[simp] theorem dispatch_refused (s : State) : (dispatch s).refused = s.refused := by rw [dispatch_eq]
@[simp] theorem dispatch_mode (s : State) : (dispatch s).mode = s.mode := by rw [dispatch_eq]
@[simp] theorem dispatch_extAnswers (s : State) : (dispatch s).extAnswers = s.extAnswers := by rw [dispatch_eq]
@[simp] theorem dispatch_pending (s : State) : (dispatch s).pending = s.pending := by rw [dispatch_eq]
@[simp] theorem dispatch_response (s : State) : (dispatch s).response = s.response := by rw [dispatch_eq]
@[simp] theorem dispatch_events (s : State) :
    (dispatch s).events = s.events ++ [signalOf s.mode s.vectorTurnCounter] := by rw [dispatch_eq]
@[simp] theorem dispatch_draws (s : State) : (dispatch s).draws = s.draws := by rw [dispatch_eq]

/-- Everything the legacy clear does (42_interrupt_dispatcher.md R177). -/
theorem legacyClear_legacy {s : State} (h : s.mode = .legacy) : legacyClear s = s.setLine false := by
  simp [legacyClear, h]

theorem legacyClear_message {s : State} (h : s.mode ≠ .legacy) : legacyClear s = s := by
  unfold legacyClear
  split
  · contradiction
  · rfl
  · rfl

/-! ### A transfer -/

/-- The event of a transfer's external call. -/
def callEvent (dir : Direction) (ext loc : Addr) (n : Word) (s : State) : Event :=
  match dir with
  | .read => .extRead ext n (s.readResult n)
  | .write => .extWrite ext n (s.bufBytes loc.toNat n.toNat) s.writeResult

@[simp] theorem eventDirection_callEvent (dir : Direction) (ext loc : Addr) (n : Word) (s : State) :
    eventDirection (callEvent dir ext loc n s) = some dir := by cases dir <;> rfl

@[simp] theorem isExternal_callEvent (dir : Direction) (ext loc : Addr) (n : Word) (s : State) :
    isExternal (callEvent dir ext loc n s) = true := by cases dir <;> rfl

@[simp] theorem isSignal_callEvent (dir : Direction) (ext loc : Addr) (n : Word) (s : State) :
    isSignal (callEvent dir ext loc n s) = false := by cases dir <;> rfl

/-- What a transfer never touches, and what every transfer does to the external port (41_dma_engine.md R147, R149, R153). -/
structure TransferFrame (s t : State) : Prop where
  reg : ∀ q, q ≠ .status → t.reg q = s.reg q
  mode : t.mode = s.mode
  pending : t.pending = s.pending
  response : t.response = s.response
  faulted : t.faulted = s.faulted
  refused : t.refused = s.refused
  extAnswers : t.extAnswers = s.extAnswers.tail
  draws : s.draws < t.draws

/-- A transfer that succeeded (R151, R155, R179). -/
structure TransferDone (dir : Direction) (e : Event) (s t : State) : Prop where
  status : t.reg .status = Direction.code dir
  events : t.events = s.events ++ [e, signalOf s.mode s.vectorTurnCounter]
  counter : t.vectorTurnCounter = counterAfter s.mode s.vectorTurnCounter
  line : t.intxLevel = lineAfter s.mode s.intxLevel

/-- A transfer that failed (R152, R172). -/
structure TransferFailed (e : Event) (s t : State) : Prop where
  status : t.reg .status = s.reg .status
  events : t.events = s.events ++ [e]
  counter : t.vectorTurnCounter = s.vectorTurnCounter
  line : t.intxLevel = s.intxLevel

/-- A transfer whose answer is `Ok` completes. -/
theorem transfer_of_ok (dir : Direction) (ext loc : Addr) (n : Word) {s : State} {bs : List Byte} (h : s.nextAnswer = .ok bs) :
    TransferFrame s (transfer dir ext loc n s) ∧
      TransferDone dir (callEvent dir ext loc n s) s (transfer dir ext loc n s) := by
  cases dir with
  | read =>
    have hr : s.readResult n = .ok (fillBytes s.draws n.toNat bs) := by simp [State.readResult, h]
    simp only [transfer, dmaRead, hr, callEvent, complete]
    constructor
    · constructor <;> simp_all [State.memRead_eq, State.setStatus_reg]
    · constructor <;> simp [State.memRead_eq, State.setStatus_reg, hr]
  | write =>
    have hw : s.writeResult = true := by simp [State.writeResult, h]
    simp only [transfer, dmaWrite, hw, callEvent, complete]
    constructor
    · constructor <;> simp_all [State.memWrite_eq, State.setStatus_reg]
    · constructor <;> simp [State.memWrite_eq, State.setStatus_reg, hw]

/-- A transfer whose answer is `Fail` is silent. -/
theorem transfer_of_fail (dir : Direction) (ext loc : Addr) (n : Word) {s : State} (h : s.nextAnswer = .fail) :
    TransferFrame s (transfer dir ext loc n s) ∧
      TransferFailed (callEvent dir ext loc n s) s (transfer dir ext loc n s) := by
  cases dir with
  | read =>
    have hr := State.readResult_fail n h
    simp only [transfer, dmaRead, hr, callEvent]
    constructor
    · constructor <;> simp [State.memRead_eq, failRead]
    · constructor <;> simp [State.memRead_eq, hr, failRead]
  | write =>
    have hw := State.writeResult_fail h
    simp only [transfer, dmaWrite, hw, callEvent]
    constructor
    · constructor <;> simp [State.memWrite_eq]
    · constructor <;> simp [State.memWrite_eq, hw]

/-- Everything a transfer can do outside the local buffer: it completes or fails, with one external call either way. -/
theorem transfer_cases (dir : Direction) (ext loc : Addr) (n : Word) (s : State) :
    TransferFrame s (transfer dir ext loc n s) ∧
      (TransferDone dir (callEvent dir ext loc n s) s (transfer dir ext loc n s) ∨
        TransferFailed (callEvent dir ext loc n s) s (transfer dir ext loc n s)) := by
  cases h : s.nextAnswer with
  | ok bs => exact ⟨(transfer_of_ok dir ext loc n h).1, .inl (transfer_of_ok dir ext loc n h).2⟩
  | fail => exact ⟨(transfer_of_fail dir ext loc n h).1, .inr (transfer_of_fail dir ext loc n h).2⟩

/-- The list a transfer leaves: the same one, or in the read direction `n` bytes written at `loc`. -/
theorem transfer_localBuffer (dir : Direction) (ext loc : Addr) (n : Word) (s : State) :
    (transfer dir ext loc n s).localBuffer = s.localBuffer ∨
      dir = .read ∧ ∃ bytes, bytes.length = n.toNat ∧
        (transfer dir ext loc n s).localBuffer = Memory.writeBytes s.localBuffer loc.toNat bytes := by
  cases dir with
  | read =>
    refine .inr ⟨rfl, ?_⟩
    simp only [transfer, dmaRead]
    split
    · rename_i bytes hb
      exact ⟨bytes, State.length_of_readResult hb, by simp [complete, State.memRead_eq]⟩
    · exact ⟨_, by simp, rfl⟩
  | write =>
    refine .inl ?_
    simp only [transfer, dmaWrite]
    split <;> simp [complete, State.memWrite_eq]

/-- A transfer changes no byte outside its local range, and none at all in the write direction (R150, R154). -/
theorem transfer_bufByte (dir : Direction) (ext loc : Addr) (n : Word) (s : State) (a : Nat)
    (h : dir = .write ∨ ¬ (loc.toNat ≤ a ∧ a < loc.toNat + n.toNat)) :
    (transfer dir ext loc n s).bufByte a = s.bufByte a := by
  rcases transfer_localBuffer dir ext loc n s with hb | ⟨hd, bytes, hl, hb⟩
  · exact State.bufByte_of_localBuffer hb a
  · have hr : ¬ (loc.toNat ≤ a ∧ a < loc.toNat + n.toNat) := by
      rcases h with h | h
      · rw [hd] at h
        cases h
      · exact h
    unfold State.bufByte
    rw [hb, Memory.read_writeBytes, if_neg (by rw [hl]; exact hr)]

/-- A successful read delivers the bytes of its answer: byte `i` lands at `loc + i` (R150). -/
theorem transfer_read_bufByte_in (ext loc : Addr) (n : Word) {s : State} {bytes : List Byte} (h : s.readResult n = .ok bytes)
    (i : Nat) (hi : i < bytes.length) : (transfer .read ext loc n s).bufByte (loc.toNat + i) = bytes[i] := by
  have hb : (transfer .read ext loc n s).localBuffer = (s.copyIn loc.toNat bytes).localBuffer := by
    simp [transfer, dmaRead, h, complete, State.memRead_eq]
  rw [State.bufByte_of_localBuffer hb]
  exact State.bufByte_copyIn_in s loc.toNat bytes i hi

/-- A transfer within the buffer keeps the canonical form. -/
theorem transfer_wf (dir : Direction) (ext loc : Addr) (n : Word) {s : State} (h : overruns loc n = false)
    (hw : Memory.wf s.localBuffer = true) : Memory.wf (transfer dir ext loc n s).localBuffer = true := by
  rcases transfer_localBuffer dir ext loc n s with hb | ⟨_, bytes, hl, hb⟩
  · rw [hb]
    exact hw
  · rw [hb]
    refine Memory.wf_writeBytes bytes ?_ hw
    simp only [overruns, decide_eq_false_iff_not] at h
    omega

/-! ### `DMA(dir)` -/

/-- The bound check is the caller's duty. -/
theorem overruns_eq_false {dir : Direction} {s : State} :
    overruns (s.localOffset dir) s.transferSize = false ↔ InBounds dir s := by
  simp [overruns, InBounds, bufSize]

/-- Within bounds, `DMA(dir)` is the transfer. -/
theorem dma_inBounds {dir : Direction} {s : State} (h : InBounds dir s) :
    dma dir s = .next (transfer dir (s.extAddr dir) (s.localOffset dir) s.transferSize s) := by
  simp [dma, overruns_eq_false.mpr h]

/-- Out of bounds, `DMA(dir)` faults before it does anything. -/
theorem dma_overrun {dir : Direction} {s : State} (h : ¬ InBounds dir s) :
    dma dir s = raiseOverrun dir (s.localOffset dir) s.transferSize s := by
  have : overruns (s.localOffset dir) s.transferSize = true := by
    cases ho : overruns (s.localOffset dir) s.transferSize
    · exact absurd (overruns_eq_false.mp ho) h
    · rfl
  simp [dma, this]

/-- Everything `DMA(dir)` can do when it answers a next state. -/
theorem dma_next {dir : Direction} {s t : State} (h : dma dir s = .next t) :
    InBounds dir s ∧ t = transfer dir (s.extAddr dir) (s.localOffset dir) s.transferSize s := by
  by_cases hb : InBounds dir s
  · rw [dma_inBounds hb] at h
    injection h with h
    exact ⟨hb, h.symm⟩
  · rw [dma_overrun hb] at h
    cases h

/-! ### The operands of a transfer depend on the descriptor alone -/

theorem State.src64_congr {s t : State} (h : ∀ q, isDescriptor q = true → t.reg q = s.reg q) : t.src64 = s.src64 := by
  unfold State.src64
  rw [h .srcHigh rfl, h .srcLow rfl]

theorem State.dst64_congr {s t : State} (h : ∀ q, isDescriptor q = true → t.reg q = s.reg q) : t.dst64 = s.dst64 := by
  unfold State.dst64
  rw [h .dstHigh rfl, h .dstLow rfl]

theorem State.extAddr_congr {s t : State} (h : ∀ q, isDescriptor q = true → t.reg q = s.reg q) (dir : Direction) :
    t.extAddr dir = s.extAddr dir := by
  cases dir
  · exact State.src64_congr h
  · exact State.dst64_congr h

theorem State.localOffset_congr {s t : State} (h : ∀ q, isDescriptor q = true → t.reg q = s.reg q) (dir : Direction) :
    t.localOffset dir = s.localOffset dir := by
  cases dir
  · exact State.dst64_congr h
  · exact State.src64_congr h

theorem State.transferSize_congr {s t : State} (h : ∀ q, isDescriptor q = true → t.reg q = s.reg q) :
    t.transferSize = s.transferSize := h .size rfl

theorem inBounds_congr {s t : State} (h : ∀ q, isDescriptor q = true → t.reg q = s.reg q) (dir : Direction) :
    InBounds dir t ↔ InBounds dir s := by
  unfold InBounds
  rw [State.localOffset_congr h dir, State.transferSize_congr h]

end Sys2Proof.Machine
end

