-- ==== Sys2Proof/Laws/PerInstr.lean ====
section
/-! SUPPORT. Statements made for each instruction: `DescriptorFields` says that the encoder leaves the reserved bit 0 and sets the
direction bit exactly when the instruction has a data operand (30_encoding.md R80). -/

namespace Sys2Proof.Laws.DescriptorFields

open Sys2Proof

/-- The fields of the instruction's descriptor that its kind decides. -/
def Statement (i : Instr) : Prop :=
  descRsv (encodeDesc i) = false ∧ descDir (encodeDesc i) = (encodeData i).isSome

theorem rdCmd (w : Width) : Statement (.rdCmd w) := ⟨descRsv_packDesc _ _ _, descDir_packDesc _ _ _⟩
theorem wrCmd (w : Width) (d : Data) : Statement (.wrCmd w d) := ⟨descRsv_packDesc _ _ _, descDir_packDesc _ _ _⟩
theorem rdSrcLo (w : Width) : Statement (.rdSrcLo w) := ⟨descRsv_packDesc _ _ _, descDir_packDesc _ _ _⟩
theorem wrSrcLo (w : Width) (d : Data) : Statement (.wrSrcLo w d) := ⟨descRsv_packDesc _ _ _, descDir_packDesc _ _ _⟩
theorem rdSrcHi (w : Width) : Statement (.rdSrcHi w) := ⟨descRsv_packDesc _ _ _, descDir_packDesc _ _ _⟩
theorem wrSrcHi (w : Width) (d : Data) : Statement (.wrSrcHi w d) := ⟨descRsv_packDesc _ _ _, descDir_packDesc _ _ _⟩
theorem rdDstLo (w : Width) : Statement (.rdDstLo w) := ⟨descRsv_packDesc _ _ _, descDir_packDesc _ _ _⟩
theorem wrDstLo (w : Width) (d : Data) : Statement (.wrDstLo w d) := ⟨descRsv_packDesc _ _ _, descDir_packDesc _ _ _⟩
theorem rdDstHi (w : Width) : Statement (.rdDstHi w) := ⟨descRsv_packDesc _ _ _, descDir_packDesc _ _ _⟩
theorem wrDstHi (w : Width) (d : Data) : Statement (.wrDstHi w d) := ⟨descRsv_packDesc _ _ _, descDir_packDesc _ _ _⟩
theorem rdSize (w : Width) : Statement (.rdSize w) := ⟨descRsv_packDesc _ _ _, descDir_packDesc _ _ _⟩
theorem wrSize (w : Width) (d : Data) : Statement (.wrSize w d) := ⟨descRsv_packDesc _ _ _, descDir_packDesc _ _ _⟩
theorem rdStatus (w : Width) : Statement (.rdStatus w) := ⟨descRsv_packDesc _ _ _, descDir_packDesc _ _ _⟩
theorem wrStatus (w : Width) (d : Data) : Statement (.wrStatus w d) := ⟨descRsv_packDesc _ _ _, descDir_packDesc _ _ _⟩
theorem rdScratch (w : Width) : Statement (.rdScratch w) := ⟨descRsv_packDesc _ _ _, descDir_packDesc _ _ _⟩
theorem wrScratch (w : Width) (d : Data) : Statement (.wrScratch w d) := ⟨descRsv_packDesc _ _ _, descDir_packDesc _ _ _⟩
theorem rdWide (off : Offset) : Statement (.rdWide off) := ⟨descRsv_packDesc _ _ _, descDir_packDesc _ _ _⟩
theorem wrWide (off : Offset) (d : Data) : Statement (.wrWide off d) := ⟨descRsv_packDesc _ _ _, descDir_packDesc _ _ _⟩
theorem rdUnmapped (w : Width) (off : Offset) : Statement (.rdUnmapped w off) :=
  ⟨descRsv_packDesc _ _ _, descDir_packDesc _ _ _⟩
theorem wrUnmapped (w : Width) (off : Offset) (d : Data) : Statement (.wrUnmapped w off d) :=
  ⟨descRsv_packDesc _ _ _, descDir_packDesc _ _ _⟩

end Sys2Proof.Laws.DescriptorFields
end

