-- ==== Sys2Proof/Laws/Step.lean ====
section
/-! SUPPORT. What a command write, an instruction and a step can do, said once. -/

namespace Sys2Proof.Machine

open Sys2Proof

/-! ### The command write -/

/-- A property that the start has and every started transfer keeps holds after the triggered transfers; a read transfer is started
only if the read bit is set. -/
theorem trigger_keeps {P : State → Prop} {dt : DualTrigger} {v : Word} {s t : State} (h : trigger dt v s = .next t) (h0 : P s)
    (hstep : ∀ dir u w, (dir = .read → readBit v = true) → P u → dma dir u = .next w → P w) : P t := by
  unfold trigger at h
  split at h
  · rename_i hr _
    exact hstep _ _ _ (fun _ => hr) h0 h
  · exact hstep .write _ _ (fun hd => by cases hd) h0 h
  · rename_i hr _
    cases dt with
    | readOnly => exact hstep _ _ _ (fun _ => hr) h0 h
    | writeOnly => exact hstep .write _ _ (fun _ => hr) h0 h
    | readThenWrite =>
      obtain ⟨u, h1, h2⟩ := andThen_eq_next h
      exact hstep _ _ _ (fun _ => hr) (hstep _ _ _ (fun _ => hr) h0 h1) h2
    | writeThenRead =>
      obtain ⟨u, h1, h2⟩ := andThen_eq_next h
      exact hstep _ _ _ (fun _ => hr) (hstep _ _ _ (fun _ => hr) h0 h1) h2
  · injection h with h
    exact h ▸ h0

/-- Everything a command write can do when it answers a next state. -/
theorem commandWrite_next {dt : DualTrigger} {v : Word} {s t : State} (h : commandWrite dt v s = .next t) :
    ∃ u, trigger dt v ((s.setReg .command v).noResponse) = .next u ∧ t = u.setReg .command 0 := by
  obtain ⟨u, h1, h2⟩ := andThen_eq_next h
  injection h2 with h2
  exact ⟨u, h1, h2.symm⟩

theorem exec_wrCmd (w : Width) (wdata : Data) (s : State) :
    exec (.wrCmd w wdata) s = commandWrite Config.dualTrigger (writeValue wdata) s := rfl

theorem readBit_writeValue (wdata : Data) : readBit (writeValue wdata) = wdata.getLsbD 0 := by
  simp [readBit, writeValue]

theorem writeBit_writeValue (wdata : Data) : writeBit (writeValue wdata) = wdata.getLsbD 1 := by
  simp [writeBit, writeValue]

/-- A command write that selects one direction is that transfer, then the clear of `command`. -/
theorem exec_wrCmd_of_selects {dir : Direction} {wdata : Data} (w : Width) (s : State) (h : Selects dir wdata) :
    exec (.wrCmd w wdata) s = andThen (dma dir ((s.setReg .command (writeValue wdata)).noResponse)) clearCommand := by
  rw [exec_wrCmd, commandWrite]
  unfold trigger
  cases dir with
  | read =>
    obtain ⟨h0, h1⟩ : wdata.getLsbD 0 = true ∧ wdata.getLsbD 1 = false := h
    simp only [readBit_writeValue, writeBit_writeValue, h0, h1]
  | write =>
    obtain ⟨h0, h1⟩ : wdata.getLsbD 0 = false ∧ wdata.getLsbD 1 = true := h
    simp only [readBit_writeValue, writeBit_writeValue, h0, h1]

/-- With both trigger bits set a command write is the transfers of `DUAL_TRIGGER`, then the clear of `command`. -/
theorem commandWrite_of_both (dt : DualTrigger) {v : Word} (s : State) (h0 : v.getLsbD 0 = true) (h1 : v.getLsbD 1 = true) :
    commandWrite dt v s = andThen (dualTransfer dt ((s.setReg .command v).noResponse)) clearCommand := by
  unfold commandWrite trigger
  simp only [readBit, writeBit, h0, h1]

/-- A command write whose two local ranges lie in the buffer answers a next state. -/
theorem commandWrite_completes (dt : DualTrigger) (v : Word) {s : State} (hr : InBounds .read s) (hw : InBounds .write s) :
    ∃ t, commandWrite dt v s = .next t := by
  have hs : ∀ dir, InBounds dir s := fun dir =>
    match dir with
    | .read => hr
    | .write => hw
  generalize h1 : (s.setReg .command v).noResponse = s1
  have hd : ∀ q, isDescriptor q = true → s1.reg q = s.reg q := by
    intro q hq
    subst h1
    simp only [State.noResponse_reg]
    exact State.setReg_reg_other s v (by rintro rfl; cases hq)
  have hb : ∀ (dir : Direction) (u : State), (∀ q, isDescriptor q = true → u.reg q = s.reg q) →
      ∃ x, dma dir u = .next x ∧ ∀ q, isDescriptor q = true → x.reg q = s.reg q := by
    intro dir u hu
    refine ⟨_, dma_inBounds ((inBounds_congr hu dir).mpr (hs dir)), fun q hq => ?_⟩
    rw [(transfer_cases dir _ _ _ u).1.reg q (by rintro rfl; cases hq)]
    exact hu q hq
  have ht : ∃ u, trigger dt v s1 = .next u := by
    unfold trigger
    split
    · exact ⟨_, (hb .read s1 hd).choose_spec.1⟩
    · exact ⟨_, (hb .write s1 hd).choose_spec.1⟩
    · obtain ⟨x, hx, hxd⟩ := hb .read s1 hd
      obtain ⟨y, hy, hyd⟩ := hb .write s1 hd
      obtain ⟨x', hx', _⟩ := hb .read y hyd
      obtain ⟨y', hy', _⟩ := hb .write x hxd
      cases dt with
      | readOnly => exact ⟨x, hx⟩
      | writeOnly => exact ⟨y, hy⟩
      | readThenWrite => exact ⟨y', by simp [dualTransfer, hx, hy']⟩
      | writeThenRead => exact ⟨x', by simp [dualTransfer, hy, hx']⟩
    · exact ⟨s1, rfl⟩
  obtain ⟨u, hu⟩ := ht
  exact ⟨u.setReg .command 0, by rw [commandWrite, h1, hu]; rfl⟩

/-! ### Every other instruction -/

theorem exec_readOf_plain {r : Reg} (w : Width) (s : State) (h : r ≠ .status) : exec (readOf w r) s = readReg r w s := by
  cases r <;> first | rfl | exact absurd rfl h

theorem exec_writeOf_plain {r : Reg} (w : Width) (wdata : Data) (s : State) (h : r ≠ .command) :
    exec (writeOf w wdata r) s = writeReg r wdata s := by
  cases r <;> first | rfl | exact absurd rfl h

/-- The shapes of an instruction. -/
theorem instr_cases (i : Instr) :
    (∃ w r, i = readOf w r) ∨ (∃ w d r, i = writeOf w d r) ∨ (∃ off, i = .rdWide off) ∨ (∃ off d, i = .wrWide off d) ∨
      (∃ w off, i = .rdUnmapped w off) ∨ (∃ w off d, i = .wrUnmapped w off d) := by
  cases i with
  | rdCmd w => exact .inl ⟨w, .command, rfl⟩
  | wrCmd w d => exact .inr (.inl ⟨w, d, .command, rfl⟩)
  | rdSrcLo w => exact .inl ⟨w, .srcLow, rfl⟩
  | wrSrcLo w d => exact .inr (.inl ⟨w, d, .srcLow, rfl⟩)
  | rdSrcHi w => exact .inl ⟨w, .srcHigh, rfl⟩
  | wrSrcHi w d => exact .inr (.inl ⟨w, d, .srcHigh, rfl⟩)
  | rdDstLo w => exact .inl ⟨w, .dstLow, rfl⟩
  | wrDstLo w d => exact .inr (.inl ⟨w, d, .dstLow, rfl⟩)
  | rdDstHi w => exact .inl ⟨w, .dstHigh, rfl⟩
  | wrDstHi w d => exact .inr (.inl ⟨w, d, .dstHigh, rfl⟩)
  | rdSize w => exact .inl ⟨w, .size, rfl⟩
  | wrSize w d => exact .inr (.inl ⟨w, d, .size, rfl⟩)
  | rdStatus w => exact .inl ⟨w, .status, rfl⟩
  | wrStatus w d => exact .inr (.inl ⟨w, d, .status, rfl⟩)
  | rdScratch w => exact .inl ⟨w, .scratch, rfl⟩
  | wrScratch w d => exact .inr (.inl ⟨w, d, .scratch, rfl⟩)
  | rdWide off => exact .inr (.inr (.inl ⟨off, rfl⟩))
  | wrWide off d => exact .inr (.inr (.inr (.inl ⟨off, d, rfl⟩)))
  | rdUnmapped w off => exact .inr (.inr (.inr (.inr (.inl ⟨w, off, rfl⟩))))
  | wrUnmapped w off d => exact .inr (.inr (.inr (.inr (.inr ⟨w, off, d, rfl⟩))))

/-- Everything an instruction can do when it answers a next state: a status read, a register write, a command write; or it touches
nothing but the response. -/
theorem exec_next {i : Instr} {s t : State} (h : exec i s = .next t) :
    (∃ p, t = s.respond p) ∨ t = s.noResponse ∨
      (∃ w, i = .rdStatus w ∧
        t = (legacyClear (s.setReg .status 0)).respond (responseOf w.bytes (zext64 (s.reg .status)))) ∨
      (∃ w d r, r ≠ .command ∧ i = writeOf w d r ∧ t = (s.setReg r (writeValue d)).noResponse) ∨
      (∃ w d, i = .wrCmd w d ∧ commandWrite Config.dualTrigger (writeValue d) s = .next t) := by
  rcases instr_cases i with ⟨w, r, rfl⟩ | ⟨w, d, r, rfl⟩ | ⟨off, rfl⟩ | ⟨off, d, rfl⟩ | ⟨w, off, rfl⟩ | ⟨w, off, d, rfl⟩
  · by_cases hr : r = .status
    · subst hr
      injection h with h
      exact .inr (.inr (.inl ⟨w, rfl, h.symm⟩))
    · rw [exec_readOf_plain w s hr] at h
      injection h with h
      exact .inl ⟨_, h.symm⟩
  · by_cases hr : r = .command
    · subst hr
      exact .inr (.inr (.inr (.inr ⟨w, d, rfl, h⟩)))
    · rw [exec_writeOf_plain w d s hr] at h
      injection h with h
      exact .inr (.inr (.inr (.inl ⟨w, d, r, hr, rfl, h.symm⟩)))
  · injection h with h
    exact .inl ⟨_, h.symm⟩
  · injection h with h
    exact .inr (.inl h.symm)
  · injection h with h
    exact .inl ⟨_, h.symm⟩
  · injection h with h
    exact .inr (.inl h.symm)

/-! ### The step -/

theorem runTransaction_ok {t : BitVec 16} {wdata : Data} {i : Instr} (s : State) (h : decodeTxn t wdata = .ok i) :
    runTransaction t wdata s = exec i s := by
  simp [runTransaction, h]

theorem runTransaction_error {t : BitVec 16} {wdata : Data} {e : Reject} (s : State) (h : decodeTxn t wdata = .error e) :
    runTransaction t wdata s = refuse e s := by
  simp [runTransaction, h]

/-- A step from an unmarked state with a move waiting runs the move. -/
theorem step_runMove {s : State} {m : HostMove} {rest : List HostMove} (hf : s.faulted = false) (hr : s.refused = false)
    (hp : s.pending = m :: rest) : step s = runMove m s.dropMove := by
  simp [step, runNext, hf, hr, hp]

theorem State.dropMove_eq {s : State} {m : HostMove} {rest : List HostMove} (hp : s.pending = m :: rest) :
    s.dropMove = { s with pending := rest } := by
  simp [State.dropMove, hp]

/-- Everything a move of the host can do when it ends in a next state. -/
theorem runMove_next {m : HostMove} {s t : State} (h : runMove m s = .next t) :
    (∃ i, moveInstr m = some i ∧ exec i s = .next t) ∨ (∃ k, m = .setMode k ∧ t = s.changeMode k) ∨
      (m = .reset ∧ t = s.restart) := by
  cases m with
  | transaction d wdata =>
    cases hd : decodeTxn d wdata with
    | ok i => exact .inl ⟨i, by simp [moveInstr, hd], by rw [← runTransaction_ok s hd]; exact h⟩
    | error e =>
      simp only [runMove, runTransaction_error s hd, refuse] at h
      cases h
  | access offset width write value =>
    cases hp : packAccess offset width write value with
    | ok p =>
      obtain ⟨d, wdata⟩ := p
      simp only [runMove, runAccess, hp] at h
      cases hd : decodeTxn d wdata with
      | ok i => exact .inl ⟨i, by simp [moveInstr, hp, hd], by rw [← runTransaction_ok s hd]; exact h⟩
      | error e =>
        simp only [runTransaction_error s hd, refuse] at h
        cases h
    | error e =>
      simp only [runMove, runAccess, hp, refuse] at h
      cases h
  | setMode k =>
    injection h with h
    exact .inr (.inl ⟨k, rfl, h.symm⟩)
  | reset =>
    injection h with h
    exact .inr (.inr ⟨rfl, h.symm⟩)

/-- Everything a step can do when it answers a next state. -/
theorem step_next {s t : State} (h : step s = .next t) :
    s.faulted = false ∧ s.refused = false ∧
      (s.pending = [] ∧ t = s ∨ ∃ m rest, s.pending = m :: rest ∧
        ((∃ i, moveInstr m = some i ∧ exec i s.dropMove = .next t) ∨ (∃ k, m = .setMode k ∧ t = s.dropMove.changeMode k) ∨
          (m = .reset ∧ t = s.dropMove.restart))) := by
  unfold step at h
  split at h
  · cases h
  · rename_i hf
    split at h
    · cases h
    · rename_i hr
      refine ⟨by simpa using hf, by simpa using hr, ?_⟩
      unfold runNext at h
      split at h
      · rename_i hp
        injection h with h
        exact .inl ⟨hp, h.symm⟩
      · rename_i m rest hp
        exact .inr ⟨m, rest, hp, runMove_next h⟩

end Sys2Proof.Machine
end

