-- ==== Sys2Proof/Tests/Slice0.lean ====
section
/-! SUPPORT. The model's own tests. Expected values are the spec's: the vectors of 95_test_vectors.md by their numbers, the words of
30_encoding.md R83 and R87 written out. Witness theorems show that the hypotheses of an obligation can be met. -/

namespace Sys2Proof.Tests

open Sys2Proof Sys2Proof.Machine

/-! ### Well-formedness smoke: an ill-formed term for each check -/

theorem test_wf_refuses_data_above_width : (Instr.wrScratch .b1 0x100).wf = false := by decide
theorem test_wf_refuses_mapped_offset_as_unmapped_read : (Instr.rdUnmapped .b4 0x018).wf = false := by decide
theorem test_wf_refuses_mapped_offset_as_unmapped_write : (Instr.wrUnmapped .b4 0x000 1).wf = false := by decide
theorem test_wf_refuses_wide_data_in_unmapped_write : (Instr.wrUnmapped .b2 0x020 0x10000).wf = false := by decide
theorem test_wf_accepts_full_width : (Instr.wrScratch .b1 0xFF).wf = true := by decide

/-! ### Decoding: one word for every constructor, bits rsv dir sz(2) off(12) written out from R80 and R83 -/

theorem test_decode_rdCmd : decodeTxn 0b0010000000000000 0 = .ok (.rdCmd .b4) := by decide
theorem test_decode_wrCmd : decodeTxn 0b0100000000000000 1 = .ok (.wrCmd .b1 1) := by decide
theorem test_decode_rdSrcLo : decodeTxn 0b0001000000000100 0 = .ok (.rdSrcLo .b2) := by decide
theorem test_decode_wrSrcLo : decodeTxn 0b0110000000000100 0x1000 = .ok (.wrSrcLo .b4 0x1000) := by decide
theorem test_decode_rdSrcHi : decodeTxn 0b0000000000001000 0 = .ok (.rdSrcHi .b1) := by decide
theorem test_decode_wrSrcHi : decodeTxn 0b0110000000001000 7 = .ok (.wrSrcHi .b4 7) := by decide
theorem test_decode_rdDstLo : decodeTxn 0b0010000000001100 0 = .ok (.rdDstLo .b4) := by decide
theorem test_decode_wrDstLo : decodeTxn 0b0101000000001100 0xFFFF = .ok (.wrDstLo .b2 0xFFFF) := by decide
theorem test_decode_rdDstHi : decodeTxn 0b0010000000010000 0 = .ok (.rdDstHi .b4) := by decide
theorem test_decode_wrDstHi : decodeTxn 0b0110000000010000 0xFFFFFFFF = .ok (.wrDstHi .b4 0xFFFFFFFF) := by decide
theorem test_decode_rdSize : decodeTxn 0b0010000000010100 0 = .ok (.rdSize .b4) := by decide
theorem test_decode_wrSize : decodeTxn 0b0110000000010100 16 = .ok (.wrSize .b4 16) := by decide
theorem test_decode_rdStatus : decodeTxn 0b0010000000011000 0 = .ok (.rdStatus .b4) := by decide
theorem test_decode_wrStatus : decodeTxn 0b0110000000011000 0x55 = .ok (.wrStatus .b4 0x55) := by decide
theorem test_decode_rdScratch : decodeTxn 0b0000000000011100 0 = .ok (.rdScratch .b1) := by decide
theorem test_decode_wrScratch : decodeTxn 0b0101000000011100 0xBEEF = .ok (.wrScratch .b2 0xBEEF) := by decide
theorem test_decode_rdWide : decodeTxn 0b0011000000011000 0 = .ok (.rdWide 0x018) := by decide
theorem test_decode_wrWide : decodeTxn 0b0111000000000000 1 = .ok (.wrWide 0x000 1) := by decide
theorem test_decode_rdUnmapped : decodeTxn 0b0010111111111100 0 = .ok (.rdUnmapped .b4 0xFFC) := by decide
theorem test_decode_wrUnmapped : decodeTxn 0b0100000000000001 1 = .ok (.wrUnmapped .b1 0x001 1) := by decide
theorem test_decode_refuses_reserved_bit : decodeTxn 0x8000 0 = .error .reservedBit := by decide
theorem test_decode_refuses_data_above_width : decodeTxn 0x4004 0x100 = .error .dataAboveWidth := by decide
theorem test_encode_examples_of_R87 :
    encodeDesc (.wrSrcLo .b4 0x1000) = 0x6004 ∧ encodeDesc (.rdStatus .b4) = 0x2018 ∧ encodeDesc (.rdWide 0) = 0x3000 ∧
    encodeDesc (.wrCmd .b1 1) = 0x4000 := by decide
theorem test_table_word : decodeTableWord 16 0x401C = some (.wrScratch .b1 0) ∧ decodeTableWord 16 0x001C = some (.rdScratch .b1) ∧
    decodeTableWord 16 0x8000 = none := by decide
theorem test_decode_bytes : decode [0x1C, 0x60, 0x78, 0x56, 0x34, 0x12, 0, 0, 0, 0, 0xAA] =
    .ok (.wrScratch .b4 0x12345678, [0xAA]) := by decide

/-! ### Single steps -/

/-- The next state of an outcome. -/
def nextOf : Result → Option State
  | .next t => some t
  | .fault _ => none
  | .refused _ => none

/-- What the bus delivers of the read an instruction makes. -/
def reads (i : Instr) (s : State) : Option Data := (nextOf (exec i s)).bind fun t => t.response.map (·.delivered)

/-- A register after an instruction. -/
def regAfter (r : Reg) (i : Instr) (s : State) : Option Word := (nextOf (exec i s)).map (·.reg r)

/-- The events of an instruction, from a state with none. -/
def eventsAfter (i : Instr) (s : State) : Option (List Event) := (nextOf (exec i s)).map (·.events)

/-- A state after reset with a descriptor, a mode and the host's answers. -/
def ready (srcHigh srcLow dstHigh dstLow size : Word) (m : Mode) (answers : List ExtAnswer) : State :=
  { State.resetWith { srcLow := srcLow, srcHigh := srcHigh, dstLow := dstLow, dstHigh := dstHigh, size := size } m with
    extAnswers := answers }

/-- Two bytes of external memory. -/
def twoBytes : ExtAnswer := .ok [0xA0, 0xA1]

-- RF1, RF2, RF3
theorem test_rdScratch_reset : reads (.rdScratch .b4) State.reset = some 0x0000000B := by decide
theorem test_rdScratch_b2 : reads (.rdScratch .b2) (State.reset.setReg .scratch 0x12345678) = some 0x5678 := by decide
-- RF4
theorem test_wrScratch_b2 : regAfter .scratch (.wrScratch .b2 0xBEEF) (State.reset.setReg .scratch 0x12345678) = some 0x0000BEEF := by
  decide
-- RF5
theorem test_wrSrcLo_b1 : regAfter .srcLow (.wrSrcLo .b1 0xAB) (State.reset.setReg .srcLow 0xFFFFFFFF) = some 0x000000AB := by decide
-- RF6
theorem test_wrDstHi : regAfter .dstHigh (.wrDstHi .b4 0xFFFFFFFF) State.reset = some 0xFFFFFFFF := by decide
theorem test_rdDstHi : reads (.rdDstHi .b4) (State.reset.setReg .dstHigh 0xFFFFFFFF) = some 0xFFFFFFFF := by decide
-- W2.1
theorem test_wrSize : regAfter .size (.wrSize .b4 0x1234) State.reset = some 0x1234 := by decide
theorem test_rdSize : reads (.rdSize .b4) (ready 0 0 0 0 0x1234 .legacy []) = some 0x1234 := by decide
theorem test_wrSrcHi : regAfter .srcHigh (.wrSrcHi .b4 1) State.reset = some 1 := by decide
theorem test_rdSrcHi : reads (.rdSrcHi .b4) (ready 0x89ABCDEF 0 0 0 0 .legacy []) = some 0x89ABCDEF := by decide
theorem test_rdSrcLo : reads (.rdSrcLo .b4) (ready 0 0x1000 0 0 0 .legacy []) = some 0x1000 := by decide
theorem test_wrDstLo : regAfter .dstLow (.wrDstLo .b4 0x80) State.reset = some 0x80 := by decide
-- the example of R106
theorem test_rdDstLo_b2 : reads (.rdDstLo .b2) (ready 0 0 0 0x80 0 .legacy []) = some 0x0080 := by decide
-- RF7, RF8, RF9, RF10, RF11, RF13
theorem test_rdWide : reads (.rdWide 0x01C) State.reset = some 0xFFFFFFFFFFFFFFFF := by decide
theorem test_wrWide : regAfter .scratch (.wrWide 0x01C 1) (State.reset.setReg .scratch 7) = some 7 := by decide
theorem test_rdUnmapped_b4 : reads (.rdUnmapped .b4 0x020) State.reset = some 0xFFFFFFFF := by decide
theorem test_rdUnmapped_b1 : reads (.rdUnmapped .b1 0x005) State.reset = some 0xFF := by decide
theorem test_wrUnmapped : eventsAfter (.wrUnmapped .b1 0x001 1) (ready 0 0 0 0 2 .legacy [twoBytes]) = some [] := by decide
-- RF14, RF16
theorem test_rdCmd : reads (.rdCmd .b4) State.reset = some 0 := by decide
theorem test_wrCmd_no_trigger : eventsAfter (.wrCmd .b4 0xFFFFFFFC) (ready 0 0 0 0 2 .legacy [twoBytes]) = some [] := by decide
-- RF17
theorem test_wrStatus : regAfter .status (.wrStatus .b4 0x55) State.reset = some 0x55 := by decide
-- RF18
theorem test_rdStatus_b1 : reads (.rdStatus .b1) (State.reset.setReg .status 0x1234) = some 0x34 := by decide
theorem test_rdStatus_clears : (nextOf (exec (.rdStatus .b1) ((State.reset.setReg .status 0x1234).setLine true))).map
    (fun t => (t.reg .status, t.intxLevel, t.events)) = some (0, false, [.line true, .line false]) := by decide
-- DM1, P1: external bytes land at the buffer's start, the status is 1, the line is asserted after the access
theorem test_dma_read : (nextOf (exec (.wrCmd .b4 1) (ready 0 0x1000 0 0 2 .legacy [twoBytes]))).map
    (fun t => (t.localBuffer, t.reg .status, t.reg .command, t.events)) =
    some ([(0, 0xA0), (1, 0xA1)], 1, 0, [.extRead 0x1000 2 (.ok [0xA0, 0xA1]), .line true]) := by decide
-- DM2, IN2: the 64-bit destination, the vector 0 in single-vector mode
theorem test_dma_write : (nextOf (exec (.wrCmd .b4 2)
    ((ready 0 0x10 2 0 2 .singleVector [.ok []]).copyIn 0x10 [0x11, 0x22]))).map
    (fun t => (t.reg .status, t.events, t.intxLevel)) =
    some (2, [.extWrite 0x200000000 2 [0x11, 0x22] true, .msg .single 0], false) := by decide
-- IN1: the first multi-vector completion signals vector 1
theorem test_dma_multi : (nextOf (exec (.wrCmd .b1 1) (ready 0 0x100 0 0x200 1 .multiVector [.ok [0x5A]]))).map
    (fun t => (t.vectorTurnCounter, t.events, t.localBuffer)) =
    some (1, [.extRead 0x100 1 (.ok [0x5A]), .msg .multi 1], [(0x200, 0x5A)]) := by decide
-- DM12: a failed read leaves the status and signals nothing
theorem test_dma_fail : (nextOf (exec (.wrCmd .b4 1) ((ready 0 0x1000 0 0 1 .legacy [.fail]).setReg .status 2))).map
    (fun t => (t.reg .status, t.events, t.intxLevel)) = some (2, [.extRead 0x1000 1 .fail], false) := by decide
-- DM6, P4: the overrun; `command` holds 1 in the state the fault leaves
theorem test_dma_overrun : exec (.wrCmd .b4 1) (ready 0 0x1000 0 0xFF8 16 .legacy []) =
    .fault (.bufferOverrun .read 0xFF8 16 { ready 0 0x1000 0 0xFF8 16 .legacy [] with command := 1, faulted := true }) := by
  rfl
-- IN8 and IN9: both trigger bits, for two values of the parameter
theorem test_dual_read_then_write : (nextOf (commandWrite .readThenWrite 3 (ready 0 0 0 0 0 .multiVector [.ok [], .ok []]))).map
    (fun t => (t.reg .status, t.vectorTurnCounter, t.events)) =
    some (2, 0, [.extRead 0 0 (.ok []), .msg .multi 1, .extWrite 0 0 [] true, .msg .multi 0]) := by decide
theorem test_dual_read_only : (nextOf (commandWrite .readOnly 3 (ready 0 0 0 0 0 .multiVector [.ok [], .ok []]))).map
    (fun t => (t.reg .status, t.vectorTurnCounter, t.events)) =
    some (1, 1, [.extRead 0 0 (.ok []), .msg .multi 1]) := by decide

/-! ### The step and the host's moves -/

/-- A state after reset with moves of the host waiting. -/
def withMoves (ms : List HostMove) : State := { State.reset with pending := ms }

theorem test_step_runs_word : (nextOf (step (State.reset.withFetchWord 16 0x201C))).bind (·.response) =
    some { rdata := 0xB, delivered := 0xB } := by decide
theorem test_step_access : (nextOf (step (withMoves [.access 0x1C 2 true 0xFFFFBEEF]))).map (·.reg .scratch) = some 0xBEEF := by decide
theorem test_step_set_mode : (nextOf (step (withMoves [.setMode .multiVector]))).map (·.mode) = some .multiVector := by decide
theorem test_step_refuses_width_3 : step (withMoves [.access 0x1C 3 false 0]) =
    .refused (.undeliverable .badWidth { State.reset with refused := true }) := by rfl
theorem test_step_faulted : step { State.reset with faulted := true } = .fault .noStepFaulted := by rfl

/-! ### Witnesses: the hypotheses of the obligations can be met -/

theorem witness_ResetMoveRestoresTheResetState : ∃ (s : State) (rest : List HostMove),
    s.faulted = false ∧ s.refused = false ∧ s.pending = .reset :: rest :=
  ⟨(withMoves [.reset, .setMode .legacy]).setReg .scratch 5, [.setMode .legacy], rfl, rfl, rfl⟩

theorem witness_EveryStepKeepsTheInvariant : ∃ s t : State, MachineInv s ∧ step s = .next t :=
  ⟨withMoves [.transaction 0x601C 9], _, ⟨rfl, rfl, rfl, rfl⟩, rfl⟩

theorem witness_DecodeOfEncodeIsTheInstruction : ∃ i : Instr, i.wf = true := ⟨.wrUnmapped .b1 0xFFF 0xFF, by decide⟩

theorem witness_DecodedBytesAreTheEncoding : ∃ (bs rest : List Byte) (i : Instr), decode bs = .ok (i, rest) :=
  ⟨[0x18, 0x20, 0x01], [0x01], .rdStatus .b4, by decide⟩

theorem witness_DecoderFollowsTheOpcodeMap : ∃ (t : BitVec 16) (wdata : Data) (i : Instr), decodeTxn t wdata = .ok i :=
  ⟨0x7FFF, 5, .wrWide 0xFFF 5, by decide⟩

theorem witness_DescriptorsWithoutTheReservedBitDecode :
    (∃ (t : BitVec 16) (wdata : Data), t.getLsbD 15 = false ∧
      ∀ w, widthOf (descSz t) = some w → descDir t = true → w.fits wdata = true) ∧
    (∃ t : BitVec 16, t.getLsbD 15 = true) :=
  ⟨⟨0x4FFF, 0xFF, by decide, fun w => by cases w <;> decide⟩, ⟨0xFFFF, by decide⟩⟩

theorem witness_BusRefusesExactlyUndeliverableAccesses :
    (∃ width : Nat, width ≠ 1 ∧ width ≠ 2 ∧ width ≠ 4 ∧ width ≠ 8) ∧
    (∃ offset width : Nat, (width = 1 ∨ width = 2 ∨ width = 4 ∨ width = 8) ∧ 4096 ≤ offset) ∧
    (∃ offset width : Nat, (width = 1 ∨ width = 2 ∨ width = 4 ∨ width = 8) ∧ offset < 4096 ∧ width ≠ 8) ∧
    (∃ offset width : Nat, (width = 1 ∨ width = 2 ∨ width = 4 ∨ width = 8) ∧ offset < 4096 ∧ width = 8) :=
  ⟨⟨0, by decide⟩, ⟨4096, 8, by decide⟩, ⟨4095, 1, by decide⟩, ⟨0, 8, by decide⟩⟩

theorem witness_StepRunsTheDecodedTransaction : ∃ (s : State) (t : BitVec 16) (wdata : Data) (rest : List HostMove) (i : Instr),
    s.faulted = false ∧ s.refused = false ∧ s.pending = .transaction t wdata :: rest ∧ decodeTxn t wdata = .ok i :=
  ⟨withMoves [.transaction 0x6004 0x1000], 0x6004, 0x1000, [], .wrSrcLo .b4 0x1000, rfl, rfl, rfl, by decide⟩

theorem witness_StepRunsTheDeliveredAccess : ∃ (s : State) (offset width : Nat) (write : Bool) (value : Data) (t : BitVec 16)
    (wdata : Data) (rest : List HostMove) (i : Instr), s.faulted = false ∧ s.refused = false ∧
    s.pending = .access offset width write value :: rest ∧ packAccess offset width write value = .ok (t, wdata) ∧
    decodeTxn t wdata = .ok i :=
  ⟨withMoves [.access 0x18 4 false 0], 0x18, 4, false, 0, 0x2018, 0, [], .rdStatus .b4, rfl, rfl, rfl, by decide, by decide⟩

theorem witness_MarkedStatesTakeNoStep : ∃ s : State, s.faulted = true ∨ s.refused = true :=
  ⟨{ State.reset with refused := true }, .inr rfl⟩

theorem witness_UndeliverableTransactionsAreRefused :
    (∃ (s : State) (rest : List HostMove) (t : BitVec 16) (wdata : Data) (e : Reject), s.faulted = false ∧ s.refused = false ∧
      s.pending = .transaction t wdata :: rest ∧ decodeTxn t wdata = .error e) ∧
    (∃ (s : State) (rest : List HostMove) (offset width : Nat) (write : Bool) (value : Data) (e : Reject), s.faulted = false ∧
      s.refused = false ∧ s.pending = .access offset width write value :: rest ∧ packAccess offset width write value = .error e) :=
  ⟨⟨withMoves [.transaction 0x8000 0], [], 0x8000, 0, .reservedBit, rfl, rfl, rfl, by decide⟩,
   ⟨withMoves [.access 4096 4 true 1], [], 4096, 4, true, 1, .outsideWindow, rfl, rfl, rfl, by decide⟩⟩

theorem witness_HostMovesThatRunNoTransaction : (∃ s : State, s.faulted = false ∧ s.refused = false ∧ s.pending = []) ∧
    (∃ (s : State) (m : Mode) (rest : List HostMove), s.faulted = false ∧ s.refused = false ∧ s.pending = .setMode m :: rest) :=
  ⟨⟨State.reset, rfl, rfl, rfl⟩, ⟨withMoves [.setMode .multiVector], .multiVector, [], rfl, rfl, rfl⟩⟩

/-- `loc + n` is exactly 4096 in both directions. -/
def edge (m : Mode) (answers : List ExtAnswer) : State := ready 0 0xFFE 0 0xFFE 2 m answers

theorem edge_inBounds (dir : Direction) (m : Mode) (answers : List ExtAnswer) : InBounds dir (edge m answers) := by
  cases dir <;>
    simp [InBounds, edge, ready, State.localOffset, State.dst64, State.src64, State.transferSize, State.reg, State.resetWith]

theorem witness_EveryDeliverableAccessCompletes : ∃ (s : State) (offset width : Nat) (write : Bool) (value : Data)
    (rest : List HostMove), s.faulted = false ∧ s.refused = false ∧ s.pending = .access offset width write value :: rest ∧
    (width = 1 ∨ width = 2 ∨ width = 4 ∨ width = 8) ∧ offset < 4096 ∧ InBounds .read s ∧ InBounds .write s :=
  ⟨{ edge .legacy [] with pending := [.access 0 4 true 3] }, 0, 4, true, 3, [], rfl, rfl, rfl, by decide, by decide,
    edge_inBounds .read .legacy [], edge_inBounds .write .legacy []⟩

theorem witness_StepsOnlyAppendEvents : ∃ s t : State, step s = .next t ∧ t.events ≠ s.events :=
  ⟨withMoves [.transaction 0x2018 0], _, rfl, by decide⟩

theorem witness_CommandReadsZero : (∃ s, MachineInv s) ∧ ∃ w wdata s t, exec (.wrCmd w wdata) s = .next t :=
  ⟨⟨State.reset, ⟨rfl, rfl, rfl, rfl⟩⟩, ⟨.b4, 1, edge .legacy [twoBytes], _, rfl⟩⟩

theorem witness_data_that_fits : Width.b1.fits 0xFF = true ∧ Width.b2.fits 0xFFFF = true ∧ Width.b4.fits 0xFFFFFFFF = true := by decide

theorem witness_DescriptorReadsReturnTheLastWrite : (∃ r, isDescriptor r = true) ∧
    ∃ r w wdata s t, isDescriptor r = true ∧ exec (.wrCmd w wdata) s = .next t :=
  ⟨⟨.srcLow, rfl⟩, ⟨.size, .b1, 2, edge .legacy [twoBytes], _, rfl, rfl⟩⟩

theorem witness_DescriptorWritesStoreTheLowWord :
    (∃ r wdata s t, isDescriptor r = true ∧ Width.b1.fits wdata = true ∧ exec (writeOf .b1 wdata r) s = .next t) ∧
    (∃ s : State, s.reg .srcHigh ≠ 0) ∧ (∃ s : State, s.reg .dstHigh ≠ 0) ∧ (∃ s : State, 4096 < (s.reg .size).toNat) ∧
    (∃ (s : State) (dir : Direction), s.reg .size = 0 ∧ (s.localOffset dir).toNat ≤ 4096) :=
  ⟨⟨.dstHigh, 0xFF, State.reset, _, rfl, by decide, rfl⟩, ⟨ready 1 0 0 0 0 .legacy [], by decide⟩,
   ⟨ready 0 0 1 0 0 .legacy [], by decide⟩, ⟨ready 0 0 0 0 4097 .legacy [], by decide⟩,
   ⟨ready 0 0 0 4096 0 .legacy [], .read, by decide, by decide⟩⟩

theorem witness_ScratchHoldsWhatWasWritten : ∃ i s t, exec i s = .next t ∧ t.reg .scratch ≠ s.reg .scratch :=
  ⟨.wrScratch .b4 0, State.reset, _, rfl, by decide⟩

theorem witness_WriteReplacesTheWholeRegister : ∃ (r : Reg) (w : Width) (wdata : Data), r ≠ .command ∧ w.fits wdata = true :=
  ⟨.status, .b2, 0xFFFF, by decide, by decide⟩

theorem witness_StatusReadReturnsAndClears : (∃ s : State, s.mode = .legacy) ∧ ∃ s : State, s.mode ≠ .legacy :=
  ⟨⟨State.reset, rfl⟩, ⟨ready 0 0 0 0 0 .singleVector [], by decide⟩⟩

theorem witness_RejectedReadsReturnTheSentinel : isMapped 0x01D = false ∧ isMapped 0x020 = false ∧ isMapped 0xFFF = false := by decide

theorem witness_RejectedWritesChangeNothing : isMapped 0x001 = false ∧ Width.b4.fits 0xFFFFFFFF = true := by decide

theorem witness_CommandWithoutATriggerBitDoesNothing : ∃ wdata : Data, wdata.getLsbD 0 = false ∧ wdata.getLsbD 1 = false :=
  ⟨0xFFFFFFFC, by decide, by decide⟩

theorem witness_ReadTransferCopiesExternalBytesIn : ∃ (wdata : Data) (s : State) (bytes : List Byte), Selects .read wdata ∧
    InBounds .read s ∧ s.readResult (s.reg .size) = .ok bytes :=
  ⟨1, edge .multiVector [twoBytes], [0xA0, 0xA1], ⟨by decide, by decide⟩, edge_inBounds .read .multiVector [twoBytes], by decide⟩

theorem witness_WriteTransferSendsBufferBytesOut :
    (∃ (wdata : Data) (s : State), Selects .write wdata ∧ InBounds .write s ∧ s.writeResult = true) ∧
    (∃ (w : Width) (wdata : Data) (s t : State), Selects .write wdata ∧ exec (.wrCmd w wdata) s = .next t) :=
  ⟨⟨2, edge .legacy [.ok []], ⟨by decide, by decide⟩, edge_inBounds .write .legacy [.ok []], rfl⟩,
   ⟨.b4, 2, edge .legacy [.fail], _, ⟨by decide, by decide⟩, rfl⟩⟩

theorem witness_FailedTransferIsSilent :
    (∃ (wdata : Data) (s : State), Selects .read wdata ∧ InBounds .read s ∧ s.nextAnswer = .fail) ∧
    (∃ (wdata : Data) (s : State), Selects .write wdata ∧ InBounds .write s ∧ s.nextAnswer = .fail) :=
  ⟨⟨1, edge .legacy [.fail], ⟨by decide, by decide⟩, edge_inBounds .read .legacy [.fail], rfl⟩,
   ⟨2, edge .legacy [.fail], ⟨by decide, by decide⟩, edge_inBounds .write .legacy [.fail], rfl⟩⟩

theorem witness_OverrunFaultsBeforeAnyAccess :
    (∃ (wdata : Data) (s : State), Selects .read wdata ∧ ¬ InBounds .read s) ∧
    (∃ (wdata : Data) (s : State), Selects .write wdata ∧ ¬ InBounds .write s) ∧
    (∃ (v : Word) (s : State), v.getLsbD 0 = true ∧ v.getLsbD 1 = true ∧ (dualDirections .readThenWrite).head? = some .read ∧
      (dualDirections .readOnly).head? = some .read ∧ ¬ InBounds .read s) ∧
    (∃ (v : Word) (s : State), v.getLsbD 0 = true ∧ v.getLsbD 1 = true ∧ (dualDirections .writeThenRead).head? = some .write ∧
      (dualDirections .writeOnly).head? = some .write ∧ ¬ InBounds .write s) :=
  ⟨⟨1, ready 0 0 0 0xFFF 2 .legacy [], ⟨by decide, by decide⟩, Nat.not_succ_le_self 4096⟩,
   ⟨2, ready 0 0xFFF 0 0 2 .legacy [], ⟨by decide, by decide⟩, Nat.not_succ_le_self 4096⟩,
   ⟨3, ready 0 0 0 0xFFF 2 .legacy [], by decide, by decide, rfl, rfl, Nat.not_succ_le_self 4096⟩,
   ⟨3, ready 0 0xFFF 0 0 2 .legacy [], by decide, by decide, rfl, rfl, Nat.not_succ_le_self 4096⟩⟩

theorem witness_CommandWriteCompletesInBounds : ∃ s : State, InBounds .read s ∧ InBounds .write s :=
  ⟨edge .legacy [], edge_inBounds .read .legacy [], edge_inBounds .write .legacy []⟩

theorem witness_DualTriggerStartsItsTransfersInOrder : ∃ (dt : DualTrigger) (v : Word) (s t : State), v.getLsbD 0 = true ∧
    v.getLsbD 1 = true ∧ commandWrite dt v s = .next t :=
  ⟨.writeThenRead, 3, edge .legacy [.ok [], twoBytes], _, by decide, by decide, rfl⟩

/-- A read is in bounds and a write is not, and the other way round. -/
theorem witness_OverrunOfTheSecondTransferKeepsTheFirst :
    (∃ (v : Word) (s u : State), v.getLsbD 0 = true ∧ v.getLsbD 1 = true ∧
      dma .read ((s.setReg .command v).noResponse) = .next u ∧ ¬ InBounds .write s) ∧
    (∃ (v : Word) (s u : State), v.getLsbD 0 = true ∧ v.getLsbD 1 = true ∧
      dma .write ((s.setReg .command v).noResponse) = .next u ∧ ¬ InBounds .read s) :=
  ⟨⟨3, ready 0 0xFFF 0 0 2 .legacy [twoBytes], _, by decide, by decide, rfl, Nat.not_succ_le_self 4096⟩,
   ⟨3, ready 0 0 0 0xFFF 2 .legacy [.ok []], _, by decide, by decide, rfl, Nat.not_succ_le_self 4096⟩⟩

theorem witness_ZeroLengthTransferMovesNothing :
    (∃ (wdata : Data) (s : State) (bytes : List Byte), Selects .read wdata ∧ s.reg .size = 0 ∧
      (s.localOffset .read).toNat ≤ 4096 ∧ s.nextAnswer = .ok bytes) ∧
    (∃ (wdata : Data) (s : State) (bytes : List Byte), Selects .write wdata ∧ s.reg .size = 0 ∧
      (s.localOffset .write).toNat ≤ 4096 ∧ s.nextAnswer = .ok bytes) :=
  ⟨⟨1, ready 0 0 0 4096 0 .legacy [.ok []], [], ⟨by decide, by decide⟩, by decide, by decide, rfl⟩,
   ⟨2, ready 0 4096 0 0 0 .legacy [.ok []], [], ⟨by decide, by decide⟩, by decide, by decide, rfl⟩⟩

theorem witness_EachTransferMakesOneExternalCall : ∃ (dir : Direction) (s t : State), dma dir s = .next t :=
  ⟨.read, edge .legacy [twoBytes], _, rfl⟩

theorem witness_DispatchSignalsByTheMode : (∃ s : State, s.mode = .multiVector) ∧ (∃ s : State, s.mode ≠ .multiVector) ∧
    (∃ s : State, s.mode = .legacy) ∧ ∃ s : State, s.mode ≠ .legacy :=
  ⟨⟨edge .multiVector [], rfl⟩, ⟨edge .singleVector [], by decide⟩, ⟨edge .legacy [], rfl⟩, ⟨edge .singleVector [], by decide⟩⟩

theorem witness_MultiVectorCompletionsAlternate : ∃ s : State, s.mode = .multiVector ∧ s.vectorTurnCounter = 0 :=
  ⟨edge .multiVector [], rfl, rfl⟩

theorem witness_LineChangesOnlyInLegacyMode :
    (∃ s : State, s.mode = .legacy) ∧ (∃ s : State, s.mode ≠ .legacy) ∧
    (∃ i s t, exec i s = .next t ∧ s.intxLevel = true ∧ t.intxLevel = false) ∧
    (∃ i s t, exec i s = .next t ∧ s.intxLevel = false ∧ t.intxLevel = true) :=
  ⟨⟨State.reset, rfl⟩, ⟨edge .multiVector [], by decide⟩, ⟨.rdStatus .b4, State.reset.setLine true, _, rfl, rfl, rfl⟩,
   ⟨.wrCmd .b4 1, edge .legacy [twoBytes], _, rfl, rfl, rfl⟩⟩

theorem witness_CounterChangesOnlyInMultiVectorMode : ∃ (i : Instr) (s t : State), exec i s = .next t ∧
    t.vectorTurnCounter ≠ s.vectorTurnCounter :=
  ⟨.wrCmd .b4 1, edge .multiVector [twoBytes], _, rfl, by decide⟩

theorem witness_LegacyLineFollowsTheStatus : ∃ s t : State, LegacyCoherent s ∧ step s = .next t ∧
    (∀ m rest, s.pending = m :: rest → (∀ i, moveInstr m = some i → ¬ IsWriteOf .status i) ∧ ∀ m', m ≠ .setMode m') := by
  refine ⟨withMoves [.transaction 0x2018 0], _, ⟨rfl, by decide⟩, rfl, ?_⟩
  intro m rest h
  injection h with h _
  subst h
  refine ⟨fun i hi => ?_, fun m' hm => by cases hm⟩
  have hd : moveInstr (.transaction 0x2018 0) = some (.rdStatus .b4) := by decide
  rw [hd] at hi
  injection hi with hi
  subst hi
  rintro ⟨_, _, hw⟩
  cases hw

theorem witness_StatusIsACodeWithoutHostWrites : ∃ s t : State, StatusCoded s ∧ step s = .next t ∧
    (∀ m rest i, s.pending = m :: rest → moveInstr m = some i → ¬ IsWriteOf .status i) := by
  refine ⟨{ edge .legacy [twoBytes] with pending := [.transaction 0x6000 1] }, _, .inl rfl, rfl, ?_⟩
  intro m rest i h hi
  injection h with h _
  subst h
  have hd : moveInstr (.transaction 0x6000 1) = some (.wrCmd .b4 1) := by decide
  rw [hd] at hi
  injection hi with hi
  subst hi
  rintro ⟨_, _, hw⟩
  cases hw

theorem witness_RegistersChangeOnlyByTheirWriters :
    (∃ (s t : State), MachineInv s ∧ step s = .next t ∧ t.reg .dstHigh ≠ s.reg .dstHigh) ∧
    (∃ (s t : State), MachineInv s ∧ step s = .next t ∧ t.reg .status ≠ s.reg .status) :=
  ⟨⟨withMoves [.transaction 0x6010 5], _, ⟨rfl, rfl, rfl, rfl⟩, rfl, by decide⟩,
   ⟨(withMoves [.transaction 0x2018 0]).setReg .status 2, _, ⟨rfl, rfl, rfl, rfl⟩, rfl, by decide⟩⟩

theorem witness_BufferContentsReachOnlyExternalWrites : ∃ (i : Instr) (s t : State), exec i s = .next t :=
  ⟨.wrCmd .b4 2, edge .legacy [.ok []], _, rfl⟩

theorem witness_ModeMattersOnlyToStatusReadAndCommandWrite : ∃ i : Instr, ¬ IsWriteOf .command i ∧ ∀ w, i ≠ .rdStatus w :=
  ⟨.wrStatus .b4 0, (fun ⟨_, _, h⟩ => by cases h), fun _ h => by cases h⟩

theorem witness_ReadsOtherThanStatusAreIdempotent : ∃ i : Instr, encodeData i = none ∧ ∀ w, i ≠ .rdStatus w :=
  ⟨.rdUnmapped .b1 0x020, rfl, fun _ h => by cases h⟩

theorem witness_PlainAccessFrame :
    (∃ (i : Instr) (s t : State), exec i s = .next t ∧ ¬ IsWriteOf .command i ∧ ∀ w, i ≠ .rdStatus w) ∧
    (∃ (i : Instr) (q : Reg), ¬ IsWriteOf q i ∧ (q = .status → ∀ w, i ≠ .rdStatus w)) :=
  ⟨⟨.wrSize .b4 1, State.reset, _, rfl, (fun ⟨_, _, h⟩ => by cases h), fun _ h => by cases h⟩,
   ⟨.wrSize .b4 1, .status, (fun ⟨_, _, h⟩ => by cases h), fun _ _ h => by cases h⟩⟩

theorem witness_CommandWriteFrame :
    (∃ (w : Width) (wdata : Data) (s t : State), exec (.wrCmd w wdata) s = .next t ∧ s.mode ≠ .multiVector ∧ wdata.getLsbD 0 = false) ∧
    (∃ (w : Width) (wdata : Data) (s t : State), exec (.wrCmd w wdata) s = .next t ∧ s.mode ≠ .legacy ∧ ¬ InRange .read s 0xFFD) :=
  ⟨⟨.b4, 2, edge .legacy [.ok []], _, rfl, by decide, by decide⟩,
   ⟨.b4, 1, edge .multiVector [twoBytes], _, rfl, by decide, fun h => absurd h.1 (by decide)⟩⟩

/-- A byte of the buffer that reads `BUF_INIT` can only be told from a written one when the two differ; a byte written and then
overwritten differs whatever `BUF_INIT` is. -/
theorem witness_BufferChangesOnlyByCommandWrites : ∃ (s t : State) (a : Nat), step s = .next t ∧ t.bufByte a ≠ s.bufByte a :=
  ⟨{ (edge .legacy [twoBytes]).copyIn 0xFFE [0x00] with pending := [.transaction 0x6000 1] }, _, 0xFFE, rfl, by decide⟩

theorem witness_DualTriggerRunsBothTransfersInOrder :
    (∃ (v : Word) (s : State) (bytes : List Byte), v.getLsbD 0 = true ∧ v.getLsbD 1 = true ∧ InBounds .read s ∧ InBounds .write s ∧
      s.readResult (s.reg .size) = .ok bytes ∧ s.useAnswer.writeResult = true) ∧
    (∃ (v : Word) (s : State) (bytes : List Byte), v.getLsbD 0 = true ∧ v.getLsbD 1 = true ∧ InBounds .read s ∧ InBounds .write s ∧
      s.writeResult = true ∧ s.useAnswer.readResult (s.reg .size) = .ok bytes) :=
  ⟨⟨3, edge .multiVector [twoBytes, .ok []], [0xA0, 0xA1], by decide, by decide, edge_inBounds .read .multiVector _,
      edge_inBounds .write .multiVector _, by decide, rfl⟩,
   ⟨3, edge .legacy [.ok [], twoBytes], [0xA0, 0xA1], by decide, by decide, edge_inBounds .read .legacy _,
      edge_inBounds .write .legacy _, rfl, by decide⟩⟩

theorem witness_DualTriggerTransfersHaveTheirOwnOutcomes : ∃ (dt : DualTrigger) (first second : Direction) (v : Word) (s : State)
    (a b : ExtAnswer) (rest : List ExtAnswer), v.getLsbD 0 = true ∧ v.getLsbD 1 = true ∧ dualDirections dt = [first, second] ∧
    InBounds .read s ∧ InBounds .write s ∧ s.extAnswers = a :: b :: rest :=
  ⟨.readThenWrite, .read, .write, 3, edge .legacy [.fail, .ok []], .fail, .ok [], [], by decide, by decide, rfl,
    edge_inBounds .read .legacy _, edge_inBounds .write .legacy _, rfl⟩

theorem witness_SingleTransferSettingsActAsThatBitAlone : ∃ (dt : DualTrigger) (dir : Direction) (v : Word) (s : State),
    v.getLsbD 0 = true ∧ v.getLsbD 1 = true ∧ dualDirections dt = [dir] ∧ InBounds dir s :=
  ⟨.writeOnly, .write, 3, edge .legacy [], by decide, by decide, rfl, edge_inBounds .write .legacy []⟩

/-- Two states whose buffers differ, before a step that sends buffer bytes. -/
theorem witness_EveryStepKeepsTheBufferHidden : ∃ s s' t : State, AgreeButBuffer s s' ∧ s'.bufByte 0xFFE ≠ s.bufByte 0xFFE ∧
    step s = .next t :=
  ⟨{ (edge .legacy [.ok []]).copyIn 0xFFE [1] with pending := [.transaction 0x6000 2] },
   { (edge .legacy [.ok []]).copyIn 0xFFE [2] with pending := [.transaction 0x6000 2] }, _,
   ⟨fun q => by cases q <;> rfl, rfl, rfl, rfl, rfl, rfl, rfl, rfl, rfl, rfl, rfl⟩, by decide, rfl⟩

end Sys2Proof.Tests
end

/-! SUPPORT. The family of the state: the frame of every instruction but a command write, the registers a command write keeps, the
projection that hides the buffer; then the obligations about reset, the marks, the invariant and the state's components. -/

namespace Sys2Proof.Machine

open Sys2Proof

/-! ### The legacy clear -/

@[simp] theorem legacyClear_reg (s : State) (q : Reg) : (legacyClear s).reg q = s.reg q := by
  unfold legacyClear; split <;> simp
@[simp] theorem legacyClear_localBuffer (s : State) : (legacyClear s).localBuffer = s.localBuffer := by
  unfold legacyClear; split <;> rfl
@[simp] theorem legacyClear_vectorTurnCounter (s : State) : (legacyClear s).vectorTurnCounter = s.vectorTurnCounter := by
  unfold legacyClear; split <;> rfl
@[simp] theorem legacyClear_faulted (s : State) : (legacyClear s).faulted = s.faulted := by
  unfold legacyClear; split <;> rfl
@[simp] theorem legacyClear_refused (s : State) : (legacyClear s).refused = s.refused := by
  unfold legacyClear; split <;> rfl

/-! ### The frame of every instruction but a command write -/

/-- The components that only a command write can reach, registers aside. -/
structure PlainFrame (s t : State) : Prop where
  localBuffer : t.localBuffer = s.localBuffer
  vectorTurnCounter : t.vectorTurnCounter = s.vectorTurnCounter
  faulted : t.faulted = s.faulted
  refused : t.refused = s.refused

/-- An instruction is a command write, or stays within the plain frame. -/
theorem exec_plainFrame {i : Instr} {s t : State} (h : exec i s = .next t) : IsWriteOf .command i ∨ PlainFrame s t := by
  rcases exec_next h with ⟨p, rfl⟩ | rfl | ⟨w, rfl, rfl⟩ | ⟨w, d, r, hr, rfl, rfl⟩ | ⟨w, d, rfl, hc⟩
  · exact .inr ⟨rfl, rfl, rfl, rfl⟩
  · exact .inr ⟨rfl, rfl, rfl, rfl⟩
  · exact .inr (by constructor <;> simp)
  · exact .inr (by constructor <;> simp)
  · exact .inl ⟨w, d, rfl⟩

/-- What an instruction other than a command write does to a register: it leaves it, or is its write, or is the status read that
clears it. -/
theorem exec_reg_cases {i : Instr} {s t : State} (h : exec i s = .next t) (q : Reg) :
    IsWriteOf .command i ∨ IsWriteOf q i ∨ t.reg q = s.reg q ∨ (q = .status ∧ (∃ w, i = .rdStatus w) ∧ t.reg q = 0) := by
  rcases exec_next h with ⟨p, rfl⟩ | rfl | ⟨w, rfl, rfl⟩ | ⟨w, d, r, hr, rfl, rfl⟩ | ⟨w, d, rfl, hc⟩
  · simp
  · simp
  · by_cases hq : q = .status
    · subst hq
      exact .inr (.inr (.inr ⟨rfl, ⟨w, rfl⟩, by simp⟩))
    · exact .inr (.inr (.inl (by simp [State.setReg_reg_other s _ hq])))
  · by_cases hq : q = r
    · subst hq
      exact .inr (.inl ⟨w, d, rfl⟩)
    · exact .inr (.inr (.inl (by simp [State.setReg_reg_other s _ hq])))
  · exact .inl ⟨w, d, rfl⟩

/-! ### The command write -/

/-- Every completed command write leaves `command` 0 (40_register_file.md R101). -/
theorem commandWrite_command {dt : DualTrigger} {v : Word} {s t : State} (h : commandWrite dt v s = .next t) :
    t.reg .command = 0 := by
  obtain ⟨u, _, rfl⟩ := commandWrite_next h
  simp

/-- A property that the start of a command write gives and every transfer in bounds keeps holds before `command` is cleared. -/
theorem commandWrite_keeps {P : State → Prop} {dt : DualTrigger} {v : Word} {s t : State} (h : commandWrite dt v s = .next t)
    (h0 : P ((s.setReg .command v).noResponse))
    (hstep : ∀ dir u, InBounds dir u → P u → P (transfer dir (u.extAddr dir) (u.localOffset dir) u.transferSize u)) :
    ∃ u, P u ∧ t = u.setReg .command 0 := by
  obtain ⟨u, hu, rfl⟩ := commandWrite_next h
  refine ⟨u, trigger_keeps hu h0 fun dir x y _ hx hy => ?_, rfl⟩
  obtain ⟨hb, rfl⟩ := dma_next hy
  exact hstep dir x hb hx

/-- A command write changes no register but `command` and `interrupt_status`. -/
theorem commandWrite_reg {dt : DualTrigger} {v : Word} {s t : State} (h : commandWrite dt v s = .next t) {q : Reg}
    (hc : q ≠ .command) (hs : q ≠ .status) : t.reg q = s.reg q := by
  obtain ⟨u, hu, rfl⟩ := commandWrite_keeps (P := fun u => u.reg q = s.reg q) h
    (by simp [State.setReg_reg_other s v hc])
    (fun dir u _ hu => ((transfer_cases dir _ _ _ u).1.reg q hs).trans hu)
  rw [State.setReg_reg_other u 0 hc, hu]

/-- The write of `command` is the command write. -/
theorem exec_of_isWriteOf_command {i : Instr} {s : State} (h : IsWriteOf .command i) :
    ∃ d, exec i s = commandWrite Config.dualTrigger (writeValue d) s := by
  obtain ⟨w, d, rfl⟩ := h
  exact ⟨d, exec_wrCmd w d s⟩

/-! ### Reset, the marks and the invariant -/

/-- Settles O3: every component the invariant speaks of is at its reset value. -/
theorem resetMeetsTheInvariant : Obligations.ResetMeetsTheInvariant := fun _ _ => ⟨rfl, Memory.wf_nil, rfl, rfl⟩

/-- Settles O13: a step that answers a next state found both marks clear. -/
theorem markedStatesTakeNoStep : Obligations.MarkedStatesTakeNoStep := by
  intro s hm t h
  obtain ⟨hf, hr, _⟩ := step_next h
  simp [hf, hr] at hm

/-- The part of the invariant that a transfer keeps. -/
structure BufferInv (s : State) : Prop where
  wf : Memory.wf s.localBuffer = true
  faulted : s.faulted = false
  refused : s.refused = false

theorem machineInv_iff (s : State) : MachineInv s ↔ s.reg .command = 0 ∧ BufferInv s :=
  ⟨fun ⟨hc, hw, hf, hr⟩ => ⟨hc, hw, hf, hr⟩, fun ⟨hc, hw, hf, hr⟩ => ⟨hc, hw, hf, hr⟩⟩

theorem BufferInv.plainFrame {s t : State} (h : BufferInv s) (hp : PlainFrame s t) : BufferInv t :=
  ⟨hp.localBuffer ▸ h.wf, hp.faulted ▸ h.faulted, hp.refused ▸ h.refused⟩

/-- A transfer in bounds writes only offsets of the buffer and sets no mark. -/
theorem BufferInv.transfer {dir : Direction} {s : State} (h : BufferInv s) (hb : InBounds dir s) :
    BufferInv (transfer dir (s.extAddr dir) (s.localOffset dir) s.transferSize s) := by
  obtain ⟨hframe, _⟩ := transfer_cases dir (s.extAddr dir) (s.localOffset dir) s.transferSize s
  exact ⟨transfer_wf dir _ _ _ (overruns_eq_false.mpr hb) h.wf, hframe.faulted.trans h.faulted,
    hframe.refused.trans h.refused⟩

theorem commandWrite_machineInv {dt : DualTrigger} {v : Word} {s t : State} (hs : BufferInv s)
    (h : commandWrite dt v s = .next t) : MachineInv t := by
  rw [machineInv_iff]
  refine ⟨commandWrite_command h, ?_⟩
  obtain ⟨u, hu, rfl⟩ := commandWrite_keeps (P := BufferInv) h (hs.plainFrame (by constructor <;> simp))
    (fun dir u hb hu => hu.transfer hb)
  exact hu.plainFrame (by constructor <;> simp)

/-- Every instruction keeps the invariant: a command write clears `command` itself, and no other instruction reaches it. -/
theorem exec_machineInv {i : Instr} {s t : State} (hs : MachineInv s) (h : exec i s = .next t) : MachineInv t := by
  obtain ⟨hc, hb⟩ := (machineInv_iff s).mp hs
  by_cases hw : IsWriteOf .command i
  · obtain ⟨d, hd⟩ := exec_of_isWriteOf_command (s := s) hw
    exact commandWrite_machineInv hb (hd ▸ h)
  · have hreg : t.reg .command = s.reg .command := by
      simpa [hw] using exec_reg_cases h .command
    exact (machineInv_iff t).mpr ⟨hreg.trans hc, hb.plainFrame ((exec_plainFrame h).resolve_left hw)⟩

/-- Settles O4, by the cases of a step. -/
theorem everyStepKeepsTheInvariant : Obligations.EveryStepKeepsTheInvariant := by
  intro s t hs h
  obtain ⟨_, _, ⟨_, rfl⟩ | ⟨m, rest, _, ⟨i, _, hi⟩ | ⟨k, _, rfl⟩ | ⟨_, rfl⟩⟩⟩ := step_next h
  · exact hs
  · exact exec_machineInv (s := s.dropMove) hs hi
  · exact hs
  · exact resetMeetsTheInvariant Config.descReset s.mode

/-! ### What changes a component -/

/-- Settles O47: every other instruction stays within the plain frame. -/
theorem bufferChangesOnlyByCommandWrites : Obligations.BufferChangesOnlyByCommandWrites := by
  intro s t a h hne
  obtain ⟨_, _, ⟨_, rfl⟩ | ⟨m, rest, hp, ⟨i, hm, hi⟩ | ⟨k, _, rfl⟩ | ⟨hm, rfl⟩⟩⟩ := step_next h
  · exact absurd rfl hne
  · refine ⟨m, rest, hp, .inr ⟨i, hm, (exec_plainFrame hi).resolve_right fun hf => hne ?_⟩⟩
    exact State.bufByte_of_localBuffer (s := t) (t := s) hf.localBuffer a
  · exact absurd rfl hne
  · exact ⟨m, rest, hp, .inl hm⟩

/-- Settles O46: a command write leaves every register but `command` and the status, and `command` is 0 before it and after. -/
theorem registersChangeOnlyByTheirWriters : Obligations.RegistersChangeOnlyByTheirWriters := by
  intro s t q hs h hne
  obtain ⟨_, _, ⟨_, rfl⟩ | ⟨m, rest, hp, ⟨i, hm, hi⟩ | ⟨k, _, rfl⟩ | ⟨hm, rfl⟩⟩⟩ := step_next h
  · exact absurd rfl hne
  · refine ⟨m, rest, hp, .inr ⟨i, hm, ?_⟩⟩
    have hne' : t.reg q ≠ s.dropMove.reg q := by simpa using hne
    rcases exec_reg_cases hi q with hw | hw | hq | ⟨hq, hr, _⟩
    · by_cases hc : q = .command
      · exact .inl (hc ▸ hw)
      · obtain ⟨d, hd⟩ := exec_of_isWriteOf_command (s := s.dropMove) hw
        have hq : q = .status := by
          by_contra hst
          exact hne' (commandWrite_reg (hd ▸ hi) hc hst)
        exact .inr ⟨hq, .inl hw⟩
    · exact .inl hw
    · exact absurd hq hne'
    · exact .inr ⟨hq, .inr hr⟩
  · exact absurd (by simp) hne
  · exact ⟨m, rest, hp, .inl hm⟩

/-- A transfer leaves the status, or leaves its direction code there. -/
theorem transfer_status (dir : Direction) (ext loc : Addr) (n : Word) (s : State) :
    (transfer dir ext loc n s).reg .status = Direction.code dir ∨ (transfer dir ext loc n s).reg .status = s.reg .status :=
  (transfer_cases dir ext loc n s).2.imp (·.status) (·.status)

theorem commandWrite_statusCoded {dt : DualTrigger} {v : Word} {s t : State} (hs : StatusCoded s)
    (h : commandWrite dt v s = .next t) : StatusCoded t := by
  obtain ⟨u, hu, rfl⟩ := commandWrite_keeps (P := StatusCoded) h (by simpa [StatusCoded, State.setReg_reg] using hs)
    (fun dir u _ hu => by
      rcases transfer_status dir (u.extAddr dir) (u.localOffset dir) u.transferSize u with h | h
      · cases dir <;> simp [StatusCoded, h, Direction.code]
      · simpa [StatusCoded, h] using hu)
  simpa [StatusCoded, State.setReg_reg] using hu

theorem exec_statusCoded {i : Instr} {s t : State} (hs : StatusCoded s) (h : exec i s = .next t) (hw : ¬ IsWriteOf .status i) :
    StatusCoded t := by
  rcases exec_reg_cases h .status with hc | hc | hq | ⟨_, _, hq⟩
  · obtain ⟨d, hd⟩ := exec_of_isWriteOf_command (s := s) hc
    exact commandWrite_statusCoded hs (hd ▸ h)
  · exact absurd hc hw
  · simpa [StatusCoded, hq] using hs
  · exact .inl hq

/-- Settles O45, by the cases of a step. -/
theorem statusIsACodeWithoutHostWrites : Obligations.StatusIsACodeWithoutHostWrites := by
  intro s t hs h hw
  obtain ⟨_, _, ⟨_, rfl⟩ | ⟨m, rest, hp, ⟨i, hm, hi⟩ | ⟨k, _, rfl⟩ | ⟨_, rfl⟩⟩⟩ := step_next h
  · exact hs
  · exact exec_statusCoded (s := s.dropMove) hs hi (hw m rest i hp hm)
  · exact hs
  · exact .inl rfl

/-- The counter is the one a command write started from, or a completion in multi-vector mode has changed it and left its code. -/
structure CounterTurned (s u : State) : Prop where
  mode : u.mode = s.mode
  counter : u.vectorTurnCounter ≠ s.vectorTurnCounter → s.mode = .multiVector ∧ (u.reg .status = 1 ∨ u.reg .status = 2)

theorem counterAfter_of_ne {m : Mode} (h : m ≠ .multiVector) (c : BitVec 1) : counterAfter m c = c := by
  cases m with
  | multiVector => exact absurd rfl h
  | singleVector => rfl
  | legacy => rfl

theorem CounterTurned.transfer {s u : State} (h : CounterTurned s u) (dir : Direction) (ext loc : Addr) (n : Word) :
    CounterTurned s (transfer dir ext loc n u) := by
  obtain ⟨hframe, hdone | hfailed⟩ := transfer_cases dir ext loc n u
  · refine ⟨hframe.mode.trans h.mode, fun hne => ⟨?_, ?_⟩⟩
    · by_contra hm
      rw [hdone.counter, counterAfter_of_ne (h.mode ▸ hm)] at hne
      exact hm (h.counter hne).1
    · rw [hdone.status]
      cases dir <;> simp [Direction.code]
  · refine ⟨hframe.mode.trans h.mode, ?_⟩
    rw [hfailed.counter, hfailed.status]
    exact h.counter

/-- Settles O43: every other instruction stays within the plain frame, and a command write turns the counter in its transfers. -/
theorem counterChangesOnlyInMultiVectorMode : Obligations.CounterChangesOnlyInMultiVectorMode := by
  intro i s t h hne
  have hw : IsWriteOf .command i := (exec_plainFrame h).resolve_right fun hf => hne hf.vectorTurnCounter
  obtain ⟨d, hd⟩ := exec_of_isWriteOf_command (s := s) hw
  obtain ⟨u, hu, rfl⟩ := commandWrite_keeps (P := CounterTurned s) (hd ▸ h) ⟨by simp, by simp⟩
    (fun dir u _ hu => hu.transfer dir _ _ _)
  obtain ⟨hmode, hstatus⟩ := hu.counter (by simpa using hne)
  exact ⟨hmode, hw, by simpa [State.setReg_reg] using hstatus⟩

/-! ### The projection that hides the buffer -/

/-- A state without its buffer and without the bytes external writes have carried. -/
def State.hide (s : State) : State := { s with localBuffer := [], events := s.events.map hideBytes }

@[simp] theorem hideBytes_hideBytes (e : Event) : hideBytes (hideBytes e) = hideBytes e := by cases e <;> rfl

/-- Agreement in all but the buffer is equality of what is left when it is hidden. -/
theorem agreeButBuffer_iff {s t : State} : AgreeButBuffer s t ↔ t.hide = s.hide := by
  constructor
  · intro ⟨hreg, hc, hl, hf, hr, hm, ha, hp, hs, he, hd⟩
    exact State.ext_reg (fun q => by have := hreg q; cases q <;> exact this) rfl hc hl hf hr hm ha hp hs he hd
  · intro h
    refine ⟨fun q => ?_, (congrArg State.vectorTurnCounter h :), (congrArg State.intxLevel h :), (congrArg State.faulted h :),
      (congrArg State.refused h :), (congrArg State.mode h :), (congrArg State.extAnswers h :), (congrArg State.pending h :),
      (congrArg State.response h :), (congrArg State.events h :), (congrArg State.draws h :)⟩
    have := congrArg (State.reg · q) h
    cases q <;> exact this

/-! Each operation on a state, seen with the buffer hidden, is that operation on the hidden state. -/

@[simp] theorem State.hide_hide (s : State) : s.hide.hide = s.hide := by simp [State.hide, Function.comp_def]
@[simp] theorem State.hide_reg (s : State) (q : Reg) : s.hide.reg q = s.reg q := by cases q <;> rfl
@[simp] theorem State.setReg_hide (s : State) (r : Reg) (v : Word) : (s.setReg r v).hide = s.hide.setReg r v := by cases r <;> rfl
@[simp] theorem State.setStatus_hide (s : State) (dir : Direction) : (s.setStatus dir).hide = s.hide.setStatus dir := rfl
@[simp] theorem State.copyIn_hide (s : State) (loc : Nat) (bytes : List Byte) : (s.copyIn loc bytes).hide = s.hide := rfl
@[simp] theorem State.emit_hide (s : State) (e : Event) : (s.emit e).hide = s.hide.emit (hideBytes e) := by
  simp [State.hide, State.emit]
@[simp] theorem State.respond_hide (s : State) (p : Response) : (s.respond p).hide = s.hide.respond p := rfl
@[simp] theorem State.noResponse_hide (s : State) : s.noResponse.hide = s.hide.noResponse := rfl
@[simp] theorem State.useAnswer_hide (s : State) : s.useAnswer.hide = s.hide.useAnswer := rfl
@[simp] theorem State.useDraw_hide (s : State) : s.useDraw.hide = s.hide.useDraw := rfl
@[simp] theorem State.dropMove_hide (s : State) : s.dropMove.hide = s.hide.dropMove := rfl
@[simp] theorem State.changeMode_hide (s : State) (m : Mode) : (s.changeMode m).hide = s.hide.changeMode m := rfl
@[simp] theorem State.restart_hide (s : State) : s.restart.hide = s.hide.restart := rfl
@[simp] theorem State.hide_readResult (s : State) (n : Word) : s.hide.readResult n = s.readResult n := rfl
@[simp] theorem State.hide_writeResult (s : State) : s.hide.writeResult = s.writeResult := rfl
@[simp] theorem State.hide_extAddr (s : State) (dir : Direction) : s.hide.extAddr dir = s.extAddr dir := by cases dir <;> rfl
@[simp] theorem State.hide_localOffset (s : State) (dir : Direction) : s.hide.localOffset dir = s.localOffset dir := by
  cases dir <;> rfl
@[simp] theorem State.hide_transferSize (s : State) : s.hide.transferSize = s.transferSize := rfl

@[simp] theorem State.memRead_hide (s : State) (addr : Addr) (n : Word) : (s.memRead addr n).hide = s.hide.memRead addr n := by
  simp [State.memRead_eq, hideBytes]

/-- The bytes sent are hidden with the buffer they came from. -/
@[simp] theorem State.memWrite_hide (s : State) (addr : Addr) (n : Word) (bytes : List Byte) :
    (s.memWrite addr n bytes).hide = s.hide.memWrite addr n [] := by
  simp [State.memWrite_eq, hideBytes]

@[simp] theorem dispatch_hide (s : State) : (dispatch s).hide = dispatch s.hide := by
  rw [dispatch_eq, dispatch_eq]
  cases h : s.mode <;> simp [State.hide, h, signalOf, hideBytes]

@[simp] theorem legacyClear_hide (s : State) : (legacyClear s).hide = legacyClear s.hide := by
  by_cases h : s.mode = .legacy
  · rw [legacyClear_legacy h, legacyClear_legacy (s := s.hide) h]
    simp [State.setLine, State.hide, State.emit, hideBytes]
  · rw [legacyClear_message h, legacyClear_message (s := s.hide) h]

/-- A transfer reads the buffer only for the bytes it sends. -/
theorem transfer_hide (dir : Direction) (ext loc : Addr) (n : Word) (s : State) :
    (transfer dir ext loc n s.hide).hide = (transfer dir ext loc n s).hide := by
  cases dir with
  | read =>
    simp only [transfer, dmaRead, State.hide_readResult]
    split <;> simp [complete, failRead]
  | write =>
    simp only [transfer, dmaWrite, State.hide_writeResult]
    split <;> simp [complete]

/-! ### Outcomes with the buffer hidden -/

/-- The next state of an outcome with its buffer hidden, and none where the outcome is a stop. -/
def hiddenNext : Result → Option State
  | .next t => some t.hide
  | .fault _ => none
  | .refused _ => none

@[simp] theorem hiddenNext_next (t : State) : hiddenNext (.next t) = some t.hide := rfl

theorem hiddenNext_eq_some {o : Result} {u : State} : hiddenNext o = some u ↔ ∃ t, o = .next t ∧ t.hide = u := by
  cases o <;> simp [hiddenNext]

/-- An operation whose next states do not depend on the buffer, seen with the buffer hidden. -/
def BufferBlind (f : State → Result) : Prop := ∀ s, hiddenNext (f s.hide) = hiddenNext (f s)

/-- From two states that agree in all but the buffer, a blind operation makes two such states. -/
theorem BufferBlind.agree {f : State → Result} (hf : BufferBlind f) {s s' t : State} (hs : AgreeButBuffer s s')
    (h : f s = .next t) : ∃ t', f s' = .next t' ∧ AgreeButBuffer t t' := by
  have ht : hiddenNext (f s') = some t.hide := by
    rw [← hf s', agreeButBuffer_iff.mp hs, hf s, h, hiddenNext_next]
  obtain ⟨t', h', he⟩ := hiddenNext_eq_some.mp ht
  exact ⟨t', h', agreeButBuffer_iff.mpr he⟩

theorem BufferBlind.next {g : State → State} (hg : ∀ s, (g s.hide).hide = (g s).hide) : BufferBlind fun s => .next (g s) :=
  fun s => congrArg some (hg s)

theorem BufferBlind.hiddenNext_andThen {g : State → Result} (hg : BufferBlind g) (o : Result) :
    hiddenNext (Machine.andThen o g) = (hiddenNext o).bind fun u => hiddenNext (g u) := by
  cases o with
  | next t => exact (hg t).symm
  | fault r => rfl
  | refused r => rfl

/-- A sequence of blind operations is blind. -/
theorem BufferBlind.andThen {f g : State → Result} (hf : BufferBlind f) (hg : BufferBlind g) :
    BufferBlind fun s => Machine.andThen (f s) g := by
  intro s
  simp only [hg.hiddenNext_andThen, hf s]

theorem bufferBlind_dma (dir : Direction) : BufferBlind (dma dir) := by
  intro s
  simp only [dma, State.hide_localOffset, State.hide_transferSize, State.hide_extAddr]
  split
  · rfl
  · simp [transfer_hide]

theorem bufferBlind_trigger (dt : DualTrigger) (v : Word) : BufferBlind (trigger dt v) := by
  unfold trigger
  split
  · exact bufferBlind_dma .read
  · exact bufferBlind_dma .write
  · cases dt with
    | readOnly => exact bufferBlind_dma .read
    | writeOnly => exact bufferBlind_dma .write
    | readThenWrite => exact (bufferBlind_dma .read).andThen (bufferBlind_dma .write)
    | writeThenRead => exact (bufferBlind_dma .write).andThen (bufferBlind_dma .read)
  · exact .next State.hide_hide

theorem bufferBlind_commandWrite (dt : DualTrigger) (v : Word) : BufferBlind (commandWrite dt v) := by
  have hstart : BufferBlind fun s => trigger dt v ((s.setReg .command v).noResponse) := by
    intro s
    simpa using bufferBlind_trigger dt v ((s.setReg .command v).noResponse)
  exact hstart.andThen (.next fun s => by simp)

theorem bufferBlind_exec (i : Instr) : BufferBlind (exec i) := by
  rcases instr_cases i with ⟨w, r, rfl⟩ | ⟨w, d, r, rfl⟩ | ⟨off, rfl⟩ | ⟨off, d, rfl⟩ | ⟨w, off, rfl⟩ | ⟨w, off, d, rfl⟩
  · by_cases hr : r = .status
    · subst hr
      exact .next fun s => by simp
    · intro s
      simp [exec_readOf_plain w _ hr, readReg]
  · by_cases hr : r = .command
    · subst hr
      exact bufferBlind_commandWrite Config.dualTrigger (writeValue d)
    · intro s
      simp [exec_writeOf_plain w d _ hr, writeReg]
  · exact .next fun s => by simp
  · exact .next fun s => by simp
  · exact .next fun s => by simp
  · exact .next fun s => by simp

theorem bufferBlind_refuse (e : Reject) : BufferBlind (refuse e) := fun _ => rfl

theorem bufferBlind_runTransaction (d : BitVec 16) (wdata : Data) : BufferBlind (runTransaction d wdata) := by
  unfold runTransaction
  split
  · exact bufferBlind_exec _
  · exact bufferBlind_refuse _

theorem bufferBlind_runMove (m : HostMove) : BufferBlind (runMove m) := by
  cases m with
  | transaction d wdata => exact bufferBlind_runTransaction d wdata
  | access offset width write value =>
    show BufferBlind (runAccess offset width write value)
    unfold runAccess
    split
    · exact bufferBlind_runTransaction _ _
    · exact bufferBlind_refuse _
  | setMode k => exact .next fun s => by simp
  | reset => exact .next fun s => by simp

theorem bufferBlind_runNext : BufferBlind runNext := by
  intro s
  have hp : s.hide.pending = s.pending := rfl
  unfold runNext
  rw [hp]
  split
  · simp
  · rw [← State.dropMove_hide]
    exact bufferBlind_runMove _ _

theorem bufferBlind_step : BufferBlind step := by
  intro s
  have hf : s.hide.faulted = s.faulted := rfl
  have hr : s.hide.refused = s.refused := rfl
  unfold step
  rw [hf, hr]
  split
  · rfl
  · split
    · rfl
    · exact bufferBlind_runNext s

/-- Settles O48: every instruction is blind, and the two states agree in all but the buffer. -/
theorem bufferContentsReachOnlyExternalWrites : Obligations.BufferContentsReachOnlyExternalWrites := by
  intro i s t m h
  have hs : AgreeButBuffer s { s with localBuffer := m } := agreeButBuffer_iff.mpr rfl
  obtain ⟨u, hu, ha⟩ := (bufferBlind_exec i).agree hs h
  exact ⟨u, hu, ha.reg, ha.response, ha.vectorTurnCounter, ha.intxLevel, ha.mode, ha.pending, ha.extAnswers, ha.draws, ha.events⟩

/-- Settles O57: a step is blind. -/
theorem everyStepKeepsTheBufferHidden : Obligations.EveryStepKeepsTheBufferHidden := fun _ _ _ => bufferBlind_step.agree

end Sys2Proof.Machine

/-! SUPPORT. The family of the memory: the event list only grows, a transfer makes one external call, reads are idempotent, and the
whole frame of every instruction but a command write. -/

namespace Sys2Proof.Machine

open Sys2Proof

/-! ### The events a step gains -/

@[simp] theorem eventDirection_signalOf (m : Mode) (c : BitVec 1) : eventDirection (signalOf m c) = none := by cases m <;> rfl

@[simp] theorem isSignal_signalOf (m : Mode) (c : BitVec 1) : isSignal (signalOf m c) = true := by cases m <;> rfl

/-- A transfer appends its external call, and the signal of a completion if it completes. -/
theorem transfer_events (dir : Direction) (ext loc : Addr) (n : Word) (s : State) :
    (transfer dir ext loc n s).events = s.events ++ [callEvent dir ext loc n s, signalOf s.mode s.vectorTurnCounter] ∨
      (transfer dir ext loc n s).events = s.events ++ [callEvent dir ext loc n s] :=
  (transfer_cases dir ext loc n s).2.imp (·.events) (·.events)

theorem events_prefix_transfer (dir : Direction) (ext loc : Addr) (n : Word) (s : State) :
    s.events <+: (transfer dir ext loc n s).events := by
  rcases transfer_events dir ext loc n s with h | h <;> exact ⟨_, h.symm⟩

theorem events_prefix_commandWrite {dt : DualTrigger} {v : Word} {s t : State} (h : commandWrite dt v s = .next t) :
    s.events <+: t.events := by
  obtain ⟨u, hu, rfl⟩ := commandWrite_keeps (P := fun u => s.events <+: u.events) h (by simp)
    (fun dir u _ hu => hu.trans (events_prefix_transfer dir _ _ _ u))
  simpa using hu

theorem events_prefix_legacyClear (s : State) : s.events <+: (legacyClear s).events := by
  by_cases h : s.mode = .legacy
  · simp [legacyClear_legacy h]
  · simp [legacyClear_message h]

theorem events_prefix_exec {i : Instr} {s t : State} (h : exec i s = .next t) : s.events <+: t.events := by
  rcases exec_next h with ⟨p, rfl⟩ | rfl | ⟨w, _, rfl⟩ | ⟨w, d, r, _, _, rfl⟩ | ⟨w, d, _, hc⟩
  · simp
  · simp
  · simpa using events_prefix_legacyClear (s.setReg .status 0)
  · simp
  · exact events_prefix_commandWrite hc

/-- Settles O17, by the cases of a step. -/
theorem stepsOnlyAppendEvents : Obligations.StepsOnlyAppendEvents := by
  intro s t h
  suffices hp : s.events <+: t.events by
    obtain ⟨es, hes⟩ := hp
    exact ⟨es, hes.symm⟩
  obtain ⟨_, _, ⟨_, rfl⟩ | ⟨m, rest, _, ⟨i, _, hi⟩ | ⟨k, _, rfl⟩ | ⟨_, rfl⟩⟩⟩ := step_next h
  · exact List.prefix_rfl
  · exact events_prefix_exec (s := s.dropMove) hi
  · exact List.prefix_rfl
  · exact List.prefix_rfl

/-- Settles O38: a transfer in bounds completes, with a call and a signal, or fails, with the call alone. -/
theorem eachTransferMakesOneExternalCall : Obligations.EachTransferMakesOneExternalCall := by
  intro dir s t h
  obtain ⟨_, rfl⟩ := dma_next h
  obtain ⟨hframe, _⟩ := transfer_cases dir (s.extAddr dir) (s.localOffset dir) s.transferSize s
  rcases transfer_events dir (s.extAddr dir) (s.localOffset dir) s.transferSize s with he | he
  · exact ⟨_, he, by simp, by simp, hframe.draws, hframe.extAnswers, hframe.reg⟩
  · exact ⟨_, he, by simp, by simp, hframe.draws, hframe.extAnswers, hframe.reg⟩

/-! ### Reads -/

@[simp] theorem State.respond_respond (s : State) (p q : Response) : (s.respond p).respond q = s.respond q := rfl

@[simp] theorem encodeData_writeOf (w : Width) (d : Data) (r : Reg) : encodeData (writeOf w d r) = some d := by cases r <;> rfl

/-- An instruction without a data operand reads a register, or answers the sentinel. -/
theorem read_cases {i : Instr} (h : encodeData i = none) :
    (∃ w r, i = readOf w r) ∨ ∃ n, ∀ s, exec i s = readSentinel n s := by
  rcases instr_cases i with hr | ⟨w, d, r, rfl⟩ | ⟨off, rfl⟩ | ⟨off, d, rfl⟩ | ⟨w, off, rfl⟩ | ⟨w, off, d, rfl⟩
  · exact .inl hr
  · simp at h
  · exact .inr ⟨8, fun _ => rfl⟩
  · cases h
  · exact .inr ⟨w.bytes, fun _ => rfl⟩
  · cases h

/-- Settles O50: what a read answers depends on no response, and the response is all it changes. -/
theorem readsOtherThanStatusAreIdempotent : Obligations.ReadsOtherThanStatusAreIdempotent := by
  intro i s h hstatus
  rcases read_cases h with ⟨w, r, rfl⟩ | ⟨n, hn⟩
  · have hr : r ≠ .status := by
      rintro rfl
      exact hstatus w rfl
    simp only [exec_readOf_plain w _ hr, readReg]
    exact ⟨_, _, rfl, rfl, by simp⟩
  · simp only [hn, readSentinel]
    exact ⟨_, _, rfl, rfl, by simp⟩

/-! ### The whole frame of an instruction that is no command write -/

@[simp] theorem legacyClear_mode (s : State) : (legacyClear s).mode = s.mode := by
  unfold legacyClear; split <;> rfl
@[simp] theorem legacyClear_extAnswers (s : State) : (legacyClear s).extAnswers = s.extAnswers := by
  unfold legacyClear; split <;> rfl
@[simp] theorem legacyClear_pending (s : State) : (legacyClear s).pending = s.pending := by
  unfold legacyClear; split <;> rfl
@[simp] theorem legacyClear_draws (s : State) : (legacyClear s).draws = s.draws := by
  unfold legacyClear; split <;> rfl

/-- The host's inputs and the index of the free values are as before: of the instructions only a command write can use up
answers and free values, and none reaches the mode or the moves. -/
structure PortFrame (s t : State) : Prop where
  extAnswers : t.extAnswers = s.extAnswers
  draws : t.draws = s.draws
  mode : t.mode = s.mode
  pending : t.pending = s.pending

theorem exec_portFrame {i : Instr} {s t : State} (h : exec i s = .next t) : IsWriteOf .command i ∨ PortFrame s t := by
  rcases exec_next h with ⟨p, rfl⟩ | rfl | ⟨w, rfl, rfl⟩ | ⟨w, d, r, hr, rfl, rfl⟩ | ⟨w, d, rfl, hc⟩
  · exact .inr ⟨rfl, rfl, rfl, rfl⟩
  · exact .inr ⟨rfl, rfl, rfl, rfl⟩
  · exact .inr (by constructor <;> simp)
  · exact .inr (by constructor <;> simp)
  · exact .inl ⟨w, d, rfl⟩

/-- Only a command write and a status read reach the line and the events. -/
theorem exec_outputs_cases {i : Instr} {s t : State} (h : exec i s = .next t) :
    IsWriteOf .command i ∨ (∃ w, i = .rdStatus w) ∨ (t.intxLevel = s.intxLevel ∧ t.events = s.events) := by
  rcases exec_next h with ⟨p, rfl⟩ | rfl | ⟨w, rfl, rfl⟩ | ⟨w, d, r, hr, rfl, rfl⟩ | ⟨w, d, rfl, hc⟩
  · exact .inr (.inr ⟨rfl, rfl⟩)
  · exact .inr (.inr ⟨rfl, rfl⟩)
  · exact .inr (.inl ⟨w, rfl⟩)
  · exact .inr (.inr (by simp))
  · exact .inl ⟨w, d, rfl⟩

/-- Settles O51: each part of the frame from the lemma that says what reaches that part. -/
theorem plainAccessFrame : Obligations.PlainAccessFrame := by
  intro i s t h hw
  have hplain : PlainFrame s t := (exec_plainFrame h).resolve_left hw
  have hport : PortFrame s t := (exec_portFrame h).resolve_left hw
  have hreg : ∀ q, ¬ IsWriteOf q i → (q = .status → ∀ w, i ≠ .rdStatus w) → t.reg q = s.reg q := by
    intro q hq hstatus
    rcases exec_reg_cases h q with hc | hq' | heq | ⟨hqs, ⟨w, hi⟩, _⟩
    · exact absurd hc hw
    · exact absurd hq' hq
    · exact heq
    · exact absurd hi (hstatus hqs w)
  have hout : (∀ w, i ≠ .rdStatus w) → t.intxLevel = s.intxLevel ∧ t.events = s.events := by
    intro hstatus
    rcases exec_outputs_cases h with hc | ⟨w, hi⟩ | hsame
    · exact absurd hc hw
    · exact absurd hi (hstatus w)
    · exact hsame
  exact ⟨State.bufByte_of_localBuffer hplain.localBuffer, hplain.vectorTurnCounter, hport.extAnswers, hport.draws, hport.mode,
    hport.pending, hplain.faulted, hplain.refused, hreg, hout⟩

end Sys2Proof.Machine

/-! SUPPORT. The family of the encoding: each kind through its descriptor and operand, the two round trips, the opcode map, the
accesses the bus packs, refusals, mode changes, `set_src` and `set_dst`. -/

namespace Sys2Proof

/-! ### The twenty kinds through their descriptors -/

@[simp] theorem encodeDesc_readOf (w : Width) (r : Reg) : encodeDesc (readOf w r) = packDesc false w.code r.offset := by
  cases r <;> rfl
@[simp] theorem encodeDesc_writeOf (w : Width) (d : Data) (r : Reg) :
    encodeDesc (writeOf w d r) = packDesc true w.code r.offset := by
  cases r <;> rfl
@[simp] theorem encodeData_readOf (w : Width) (r : Reg) : encodeData (readOf w r) = none := by cases r <;> rfl
@[simp] theorem wf_readOf (w : Width) (r : Reg) : (readOf w r).wf = true := by cases r <;> rfl
@[simp] theorem wf_writeOf (w : Width) (d : Data) (r : Reg) : (writeOf w d r).wf = w.fits d := by cases r <;> rfl

/-- The encoder leaves the reserved bit clear and sets the direction bit where there is a data operand (30_encoding.md R80). -/
theorem descriptorFields (i : Instr) : Laws.DescriptorFields.Statement i := by
  unfold Laws.DescriptorFields.Statement
  rcases Machine.instr_cases i with ⟨w, r, rfl⟩ | ⟨w, d, r, rfl⟩ | ⟨off, rfl⟩ | ⟨off, d, rfl⟩ | ⟨w, off, rfl⟩ | ⟨w, off, d, rfl⟩
  · simp
  · simp
  · exact Laws.DescriptorFields.rdWide off
  · exact Laws.DescriptorFields.wrWide off d
  · exact Laws.DescriptorFields.rdUnmapped w off
  · exact Laws.DescriptorFields.wrUnmapped w off d

/-- Decoding the descriptor and the operand of a well-formed instruction gives it back. -/
theorem decodeTxn_encodeDesc {i : Instr} (h : i.wf = true) : decodeTxn (encodeDesc i) ((encodeData i).getD 0) = .ok i := by
  rcases Machine.instr_cases i with ⟨w, r, rfl⟩ | ⟨w, d, r, rfl⟩ | ⟨off, rfl⟩ | ⟨off, d, rfl⟩ | ⟨w, off, rfl⟩ | ⟨w, off, d, rfl⟩
  · simp [decodeTxn_packDesc_read]
  · rw [wf_writeOf] at h
    simp [decodeTxn_packDesc_write r.offset h]
  · exact decodeTxn_packDesc_wide false off 0
  · exact decodeTxn_packDesc_wide true off d
  · have hoff : isMapped off = false := by simpa [Instr.wf] using h
    exact (decodeTxn_packDesc_read w off 0).trans (congrArg _ (decodeRead_unmapped w hoff))
  · obtain ⟨hoff, hfits⟩ : isMapped off = false ∧ w.fits d = true := by simpa [Instr.wf] using h
    exact (decodeTxn_packDesc_write off hfits).trans (congrArg _ (decodeWrite_unmapped w d hoff))

/-- Everything the decoder can accept: an 8-byte access, or one of an honoured width. -/
theorem decodeTxn_ok {t : BitVec 16} {wdata : Data} {i : Instr} (h : decodeTxn t wdata = .ok i) :
    (∃ off, t = packDesc false 3 off ∧ i = .rdWide off) ∨ (∃ off, t = packDesc true 3 off ∧ i = .wrWide off wdata) ∨
      (∃ w off, t = packDesc false w.code off ∧ i = decodeRead w off) ∨
      (∃ w off, t = packDesc true w.code off ∧ w.fits wdata = true ∧ i = decodeWrite w off wdata) := by
  unfold decodeTxn at h
  split at h
  · cases h
  · rename_i hrsv
    have ht := packDesc_fields (Bool.not_eq_true _ ▸ hrsv)
    generalize descDir t = dir at *
    generalize descOff t = off at *
    split at h
    · rename_i hsz
      rw [eq_three_of_widthOf hsz] at ht
      injection h with h
      cases dir with
      | false => exact .inl ⟨off, ht.symm, h.symm⟩
      | true => exact .inr (.inl ⟨off, ht.symm, h.symm⟩)
    · rename_i w hsz
      rw [code_of_widthOf hsz] at ht
      cases dir with
      | false =>
        injection h with h
        exact .inr (.inr (.inl ⟨w, off, ht.symm, h.symm⟩))
      | true =>
        simp only [if_true] at h
        split at h
        · rename_i hfits
          injection h with h
          exact .inr (.inr (.inr ⟨w, off, ht.symm, hfits, h.symm⟩))
        · cases h

/-- An offset is that of one register, or is unmapped (20_memory.md R52). -/
theorem offset_cases (off : Offset) : (∃ r : Reg, off = r.offset) ∨ isMapped off = false := by
  cases h : regAt off with
  | some r => exact .inl ⟨r, offset_of_regAt h⟩
  | none => exact .inr ((regAt_eq_none_iff off).mp h)

/-- The instruction of an honoured-width read carries all of its descriptor. -/
theorem decodeRead_encodes (w : Width) (off : Offset) :
    (decodeRead w off).wf = true ∧ encodeDesc (decodeRead w off) = packDesc false w.code off ∧
      encodeData (decodeRead w off) = none := by
  rcases offset_cases off with ⟨r, rfl⟩ | h
  · simp
  · rw [decodeRead_unmapped w h]
    exact ⟨by simp [Instr.wf, h], rfl, rfl⟩

/-- The instruction of an honoured-width write carries all of its descriptor and its data. -/
theorem decodeWrite_encodes {w : Width} (off : Offset) {wdata : Data} (hfits : w.fits wdata = true) :
    (decodeWrite w off wdata).wf = true ∧ encodeDesc (decodeWrite w off wdata) = packDesc true w.code off ∧
      encodeData (decodeWrite w off wdata) = some wdata := by
  rcases offset_cases off with ⟨r, rfl⟩ | h
  · simp [hfits]
  · rw [decodeWrite_unmapped w wdata h]
    exact ⟨by simp [Instr.wf, h, hfits], rfl, rfl⟩

/-- What the decoder accepts is well-formed, and has the descriptor and, for a write, the operand that were decoded. -/
theorem decodeTxn_encodes {t : BitVec 16} {wdata : Data} {i : Instr} (h : decodeTxn t wdata = .ok i) :
    i.wf = true ∧ encodeDesc i = t ∧ encodeData i = if descDir t then some wdata else none := by
  rcases decodeTxn_ok h with ⟨off, rfl, rfl⟩ | ⟨off, rfl, rfl⟩ | ⟨w, off, rfl, rfl⟩ | ⟨w, off, rfl, hfits, rfl⟩
  · simp [Instr.wf, encodeDesc, encodeData]
  · simp [Instr.wf, encodeDesc, encodeData]
  · simp [decodeRead_encodes]
  · simp [decodeWrite_encodes off hfits]

/-! ### Transactions as bytes -/

/-- The two bytes that spell a descriptor are its bytes. -/
theorem descBytes_descOfBytes (b0 b1 : Byte) : descBytes (descOfBytes b0 b1) = [b0, b1] :=
  congrArg₂ (fun x y : Byte => [x, y]) BitVec.extractLsb'_append_eq_right BitVec.extractLsb'_append_eq_left

/-- Lane `k + 1` of a value is lane `k` of what stands above its lowest byte. -/
theorem lane_succ_append {n : Nat} (x : BitVec n) (d : Byte) (k : Nat) :
    (x ++ d).extractLsb' (8 * (k + 1)) 8 = x.extractLsb' (8 * k) 8 := by
  rw [BitVec.extractLsb'_append_eq_of_le (by omega), Nat.mul_succ, Nat.add_sub_cancel]

theorem lane_zero_append {n : Nat} (x : BitVec n) (d : Byte) : (x ++ d).extractLsb' (8 * 0) 8 = d :=
  BitVec.extractLsb'_append_eq_right

/-- The eight bytes that spell an operand are its lanes. -/
theorem dataBytes_dataOfBytes (d0 d1 d2 d3 d4 d5 d6 d7 : Byte) :
    dataBytes (dataOfBytes d0 d1 d2 d3 d4 d5 d6 d7) = [d0, d1, d2, d3, d4, d5, d6, d7] := by
  unfold dataBytes laneByte dataOfBytes
  repeat rw [lane_succ_append]
  repeat rw [lane_zero_append]
  rw [BitVec.extractLsb'_eq_self]

/-- Decoding the bytes of a descriptor and of the operand its direction bit asks for decodes the two as values. -/
theorem decode_bytes {t : BitVec 16} {operand : Option Data} (rest : List Byte) (hrsv : descRsv t = false)
    (hdir : descDir t = operand.isSome) :
    decode (descBytes t ++ operandBytes operand ++ rest) = withRest rest (decodeTxn t (operand.getD 0)) := by
  cases operand with
  | none => simp [decode, descBytes, operandBytes, hrsv, hdir]
  | some v => simp [decode, descBytes, operandBytes, dataBytes, decodeOperand, hrsv, hdir]

theorem withRest_eq_ok {rest rest' : List Byte} {o : Except Reject Instr} {i : Instr} :
    withRest rest o = .ok (i, rest') ↔ o = .ok i ∧ rest = rest' := by
  cases o <;> simp [withRest]

/-- The bytes that decode to an instruction are those of a descriptor and of the operand its direction bit asks for. -/
theorem decode_ok {bs rest : List Byte} {i : Instr} (h : decode bs = .ok (i, rest)) :
    ∃ t operand, bs = descBytes t ++ operandBytes operand ++ rest ∧ descDir t = operand.isSome ∧
      decodeTxn t (operand.getD 0) = .ok i := by
  unfold decode at h
  split at h
  · rename_i b0 b1 tail
    split at h
    · cases h
    · split at h
      · rename_i hdir
        unfold decodeOperand at h
        split at h
        · rename_i d0 d1 d2 d3 d4 d5 d6 d7 tail
          obtain ⟨hi, rfl⟩ := withRest_eq_ok.mp h
          exact ⟨_, some (dataOfBytes d0 d1 d2 d3 d4 d5 d6 d7),
            by simp [descBytes_descOfBytes, operandBytes, dataBytes_dataOfBytes], hdir, hi⟩
        · cases h
      · rename_i hdir
        obtain ⟨hi, rfl⟩ := withRest_eq_ok.mp h
        exact ⟨_, none, by simp [descBytes_descOfBytes, operandBytes], by simpa using hdir, hi⟩
  · cases h

/-- Settles O5: the bytes of an encoding decode as its descriptor and operand do. -/
theorem decodeOfEncodeIsTheInstruction : Obligations.DecodeOfEncodeIsTheInstruction := by
  intro i rest hwf
  obtain ⟨hrsv, hdir⟩ := descriptorFields i
  rw [encode, decode_bytes rest hrsv hdir, decodeTxn_encodeDesc hwf]
  rfl

/-- Settles O6: the bytes are those of a descriptor and an operand, which the decoded instruction has. -/
theorem decodedBytesAreTheEncoding : Obligations.DecodedBytesAreTheEncoding := by
  intro bs rest i h
  obtain ⟨t, operand, rfl, hdir, hi⟩ := decode_ok h
  obtain ⟨hwf, hdesc, hdata⟩ := decodeTxn_encodes hi
  have hop : encodeData i = operand := by
    cases operand <;> simp [hdata, hdir]
  exact ⟨hwf, by rw [encode, hdesc, hop]⟩

/-! ### The opcode map -/

/-- A mask's size and offset fields select those of a descriptor; every mask of R83 keeps the bits above them. -/
theorem packDesc_and_mask (d : Bool) (z z' : BitVec 2) (o o' : Offset) :
    packDesc d z o &&& (1#1 ++ 1#1 ++ z' ++ o') = packDesc d (z &&& z') (o &&& o') := by
  unfold packDesc
  rw [BitVec.and_append, BitVec.and_append, BitVec.and_append]
  cases d <;> rfl

theorem packDesc_and_wideMask (d : Bool) (z : BitVec 2) (o : Offset) : packDesc d z o &&& 0xF000 = packDesc d z 0 :=
  (packDesc_and_mask d z (BitVec.allOnes 2) o 0).trans (by rw [BitVec.and_allOnes]; simp)

theorem packDesc_and_registerMask (d : Bool) (z : BitVec 2) (o : Offset) : packDesc d z o &&& 0xCFFF = packDesc d 0 o :=
  (packDesc_and_mask d z 0 o (BitVec.allOnes 12)).trans (by rw [BitVec.and_allOnes]; simp)

theorem packDesc_and_unmappedMask (d : Bool) (z : BitVec 2) (o : Offset) : packDesc d z o &&& 0xC000 = packDesc d 0 0 :=
  (packDesc_and_mask d z 0 o 0).trans (by simp)

/-- The mnemonic of the first of some rows of the opcode map whose masked bits equal the descriptor's. -/
def mnemonicIn (rows : List OpcodeRow) (t : BitVec 16) : Option String :=
  (rows.find? fun row => t &&& row.mask == row.bits).map (·.mnemonic)

/-- The opcode map is searched in the order of R82: the wide rows, the register rows, the unmapped rows. -/
theorem map_mnemonic_opcodeRowOf (t : BitVec 16) :
    (opcodeRowOf t).map (·.mnemonic) =
      ((mnemonicIn wideRows t).or (mnemonicIn registerRows t)).or (mnemonicIn unmappedRows t) := by
  simp only [opcodeRowOf, opcodeRows, mnemonicIn, List.find?_append, Option.map_or]

theorem mnemonicIn_eq_none {rows : List OpcodeRow} {t : BitVec 16} (h : ∀ row ∈ rows, t &&& row.mask ≠ row.bits) :
    mnemonicIn rows t = none := by
  simpa [mnemonicIn] using h

theorem mask_and_size_of_mem_wideRows : ∀ row ∈ wideRows, row.mask = 0xF000 ∧ descSz row.bits = 3 := by decide

theorem mask_and_offset_of_mem_registerRows : ∀ row ∈ registerRows, row.mask = 0xCFFF ∧ isMapped (descOff row.bits) = true := by
  decide

theorem mnemonicIn_wideRows (d : Bool) (o : Offset) :
    mnemonicIn wideRows (packDesc d 3 o) = some (if d then "WR.WIDE" else "RD.WIDE") := by
  simp only [mnemonicIn, wideRows, List.find?_cons, packDesc_and_wideMask]
  cases d <;> rfl

/-- No wide row fits a descriptor of an honoured width. -/
theorem mnemonicIn_wideRows_honoured (d : Bool) (w : Width) (o : Offset) : mnemonicIn wideRows (packDesc d w.code o) = none := by
  refine mnemonicIn_eq_none fun row hrow hbits => ?_
  obtain ⟨hmask, hsz⟩ := mask_and_size_of_mem_wideRows row hrow
  rw [hmask, packDesc_and_wideMask] at hbits
  rw [← hbits, descSz_packDesc] at hsz
  cases w <;> cases hsz

theorem mnemonicIn_registerRows_read (w : Width) (r : Reg) :
    mnemonicIn registerRows (packDesc false w.code r.offset) = some (readOf w r).mnemonic := by
  simp only [mnemonicIn, registerRows, List.find?_cons, packDesc_and_registerMask]
  cases r <;> rfl

theorem mnemonicIn_registerRows_write (w : Width) (wdata : Data) (r : Reg) :
    mnemonicIn registerRows (packDesc true w.code r.offset) = some (writeOf w wdata r).mnemonic := by
  simp only [mnemonicIn, registerRows, List.find?_cons, packDesc_and_registerMask]
  cases r <;> rfl

/-- No register row fits a descriptor of an unmapped offset. -/
theorem mnemonicIn_registerRows_unmapped (d : Bool) (z : BitVec 2) {o : Offset} (h : isMapped o = false) :
    mnemonicIn registerRows (packDesc d z o) = none := by
  refine mnemonicIn_eq_none fun row hrow hbits => ?_
  obtain ⟨hmask, hmapped⟩ := mask_and_offset_of_mem_registerRows row hrow
  rw [hmask, packDesc_and_registerMask] at hbits
  rw [← hbits, descOff_packDesc, h] at hmapped
  cases hmapped

theorem mnemonicIn_unmappedRows (d : Bool) (z : BitVec 2) (o : Offset) :
    mnemonicIn unmappedRows (packDesc d z o) = some (if d then "WR.UNMAPPED" else "RD.UNMAPPED") := by
  simp only [mnemonicIn, unmappedRows, List.find?_cons, packDesc_and_unmappedMask]
  cases d <;> rfl

/-- Settles O7: a wide access takes a wide row; any other fits none of these, and takes a register row exactly at a mapped offset. -/
theorem decoderFollowsTheOpcodeMap : Obligations.DecoderFollowsTheOpcodeMap := by
  intro t wdata i h
  rw [← Option.map_eq_some_iff, map_mnemonic_opcodeRowOf]
  rcases decodeTxn_ok h with ⟨off, rfl, rfl⟩ | ⟨off, rfl, rfl⟩ | ⟨w, off, rfl, rfl⟩ | ⟨w, off, rfl, _, rfl⟩
  · rw [mnemonicIn_wideRows]
    rfl
  · rw [mnemonicIn_wideRows]
    rfl
  · rw [mnemonicIn_wideRows_honoured]
    rcases offset_cases off with ⟨r, rfl⟩ | hoff
    · rw [mnemonicIn_registerRows_read, decodeRead_offset]
      rfl
    · rw [mnemonicIn_registerRows_unmapped _ _ hoff, mnemonicIn_unmappedRows, decodeRead_unmapped w hoff]
      rfl
  · rw [mnemonicIn_wideRows_honoured]
    rcases offset_cases off with ⟨r, rfl⟩ | hoff
    · rw [mnemonicIn_registerRows_write w wdata, decodeWrite_offset]
      rfl
    · rw [mnemonicIn_registerRows_unmapped _ _ hoff, mnemonicIn_unmappedRows, decodeWrite_unmapped w wdata hoff]
      rfl

/-- Settles O9, by running the decoder on each word. -/
theorem sampleDescriptorsDecode : Obligations.SampleDescriptorsDecode := by
  unfold Obligations.SampleDescriptorsDecode
  decide

/-! ### Accesses the bus packs -/

/-- The widths the bus delivers, with their size codes: an honoured one, or 8 bytes. -/
theorem szOfBytes_cases {width : Nat} (h : width = 1 ∨ width = 2 ∨ width = 4 ∨ width = 8) :
    (∃ w : Width, width = w.bytes ∧ szOfBytes width = some w.code) ∨ (width = 8 ∧ szOfBytes width = some 3) := by
  rcases h with rfl | rfl | rfl | rfl
  · exact .inl ⟨.b1, rfl, rfl⟩
  · exact .inl ⟨.b2, rfl, rfl⟩
  · exact .inl ⟨.b4, rfl, rfl⟩
  · exact .inr ⟨rfl, rfl⟩

theorem bytes_eq_shiftLeft_code (w : Width) : w.bytes = 1 <<< w.code.toNat := by cases w <;> rfl

theorem szOfBytes_eq_none {width : Nat} (h : width ≠ 1 ∧ width ≠ 2 ∧ width ≠ 4 ∧ width ≠ 8) : szOfBytes width = none := by
  obtain ⟨h1, h2, h4, h8⟩ := h
  simp [szOfBytes, h1, h2, h4, h8]

theorem packAccess_badWidth {width : Nat} (offset : Nat) (write : Bool) (value : Data) (h : szOfBytes width = none) :
    packAccess offset width write value = .error .badWidth := by
  simp [packAccess, h]

theorem packAccess_outsideWindow {offset width : Nat} {sz : BitVec 2} (write : Bool) (value : Data)
    (h : szOfBytes width = some sz) (ho : 4096 ≤ offset) : packAccess offset width write value = .error .outsideWindow := by
  simp [packAccess, h, Nat.not_lt.mpr ho]

/-- The data operand the bus makes of a value: its low `width` bytes, zero-extended (log entry 13). -/
def lowBytes (width : Nat) (value : Data) : Data := (value.setWidth (8 * width)).setWidth 64

theorem packAccess_delivered {offset width : Nat} {sz : BitVec 2} (write : Bool) (value : Data)
    (h : szOfBytes width = some sz) (ho : offset < 4096) :
    packAccess offset width write value = .ok (packDesc write sz (BitVec.ofNat 12 offset), lowBytes width value) := by
  simp [packAccess, h, ho, lowBytes]

theorem toNat_lowBytes {width : Nat} (value : Data) (h : width ≤ 8) :
    (lowBytes width value).toNat = value.toNat % 2 ^ (8 * width) := by
  rw [lowBytes, BitVec.toNat_setWidth_of_le (by omega), BitVec.toNat_setWidth]

/-- The data the bus packs fit their width, so R81 never refuses a packed write. -/
theorem fits_lowBytes (w : Width) (value : Data) : w.fits (lowBytes w.bytes value) = true := by
  rw [Width.fits, toNat_lowBytes value (by cases w <;> decide)]
  exact decide_eq_true (Nat.mod_lt _ (Nat.two_pow_pos _))

theorem decodeTxn_honoured_lowBytes (write : Bool) (w : Width) (off : Offset) (value : Data) :
    ∃ i, decodeTxn (packDesc write w.code off) (lowBytes w.bytes value) = .ok i := by
  cases write with
  | false => exact ⟨_, decodeTxn_packDesc_read w off _⟩
  | true => exact ⟨_, decodeTxn_packDesc_write off (fits_lowBytes w value)⟩

/-- Settles O10: the refusals come from the checks on the width and the offset, and what is packed decodes, because its data
are cut to the width. -/
theorem busRefusesExactlyUndeliverableAccesses : Obligations.BusRefusesExactlyUndeliverableAccesses := by
  intro offset width write value
  refine ⟨fun hw => packAccess_badWidth _ _ _ (szOfBytes_eq_none hw), fun hw ho => ?_, fun hw ho => ?_⟩
  · rcases szOfBytes_cases hw with ⟨w, _, hsz⟩ | ⟨_, hsz⟩
    · exact packAccess_outsideWindow write value hsz ho
    · exact packAccess_outsideWindow write value hsz ho
  · have hoff : (BitVec.ofNat 12 offset).toNat = offset := Nat.mod_eq_of_lt ho
    rcases szOfBytes_cases hw with ⟨w, rfl, hsz⟩ | ⟨rfl, hsz⟩
    · obtain ⟨i, hi⟩ := decodeTxn_honoured_lowBytes write w (BitVec.ofNat 12 offset) value
      exact ⟨_, _, i, packAccess_delivered write value hsz ho, by simpa using hoff, by simpa using bytes_eq_shiftLeft_code w,
        by simp, (fun h => by cases w <;> cases h), by simp, toNat_lowBytes value (by cases w <;> decide), hi⟩
    · exact ⟨_, _, _, packAccess_delivered write value hsz ho, by simpa using hoff, by simp, by simp, by simp, by simp,
        toNat_lowBytes value le_rfl, decodeTxn_packDesc_wide write _ _⟩

end Sys2Proof

namespace Sys2Proof.Machine

open Sys2Proof

/-! ### Refusals -/

theorem runAccess_error {offset width : Nat} {write : Bool} {value : Data} {e : Reject} (s : State)
    (h : packAccess offset width write value = .error e) : runAccess offset width write value s = refuse e s := by
  simp [runAccess, h]

/-- Settles O14: the move runs on the state it has been taken from, and ends in the refusal. -/
theorem undeliverableTransactionsAreRefused : Obligations.UndeliverableTransactionsAreRefused := by
  intro s rest hf hr
  refine ⟨fun t wdata e hp hd => ?_, fun offset width write value e hp hd => ?_⟩
  · rw [step_runMove hf hr hp, State.dropMove_eq hp]
    exact runTransaction_error _ hd
  · rw [step_runMove hf hr hp, State.dropMove_eq hp]
    exact runAccess_error _ hd

/-! ### Mode changes (10_state.md R31) -/

theorem State.setReg_changeMode (s : State) (r : Reg) (v : Word) (m : Mode) :
    (s.changeMode m).setReg r v = (s.setReg r v).changeMode m := by cases r <;> rfl

/-- An operation that always completes, and on which a mode change before it acts as one after it. -/
def ModeBlind (f : State → Result) : Prop :=
  ∀ s m, ∃ t, f s = .next t ∧ f (s.changeMode m) = .next (t.changeMode m)

theorem modeBlind_readReg (r : Reg) (w : Width) : ModeBlind (readReg r w) := by
  intro s m
  simp only [readReg, State.changeMode_reg]
  exact ⟨_, rfl, rfl⟩

theorem modeBlind_writeReg (r : Reg) (wdata : Data) : ModeBlind (writeReg r wdata) := by
  intro s m
  simp only [writeReg, State.setReg_changeMode]
  exact ⟨_, rfl, rfl⟩

theorem modeBlind_readSentinel (n : Nat) : ModeBlind (readSentinel n) := fun _ _ => ⟨_, rfl, rfl⟩

theorem modeBlind_discardWrite : ModeBlind discardWrite := fun _ _ => ⟨_, rfl, rfl⟩

/-- Settles O49: every other register access is a plain read or a plain write, and neither consults the mode. -/
theorem modeMattersOnlyToStatusReadAndCommandWrite : Obligations.ModeMattersOnlyToStatusReadAndCommandWrite := by
  intro i s m hcommand hstatus
  suffices hi : ModeBlind (exec i) from hi s m
  rcases instr_cases i with ⟨w, r, rfl⟩ | ⟨w, d, r, rfl⟩ | ⟨off, rfl⟩ | ⟨off, d, rfl⟩ | ⟨w, off, rfl⟩ | ⟨w, off, d, rfl⟩
  · have hr : r ≠ .status := by
      rintro rfl
      exact hstatus w rfl
    rw [show exec (readOf w r) = readReg r w from funext fun s => exec_readOf_plain w s hr]
    exact modeBlind_readReg r w
  · have hr : r ≠ .command := by
      rintro rfl
      exact hcommand ⟨w, d, rfl⟩
    rw [show exec (writeOf w d r) = writeReg r d from funext fun s => exec_writeOf_plain w d s hr]
    exact modeBlind_writeReg r d
  · exact modeBlind_readSentinel 8
  · exact modeBlind_discardWrite
  · exact modeBlind_readSentinel w.bytes
  · exact modeBlind_discardWrite

/-! ### `set_src` and `set_dst` (30_encoding.md R88) -/

/-- A write by a register's name stores its 32-bit value whole. -/
theorem exec_wrAt {r : Reg} (w : Width) (v : Word) (s : State) (h : r ≠ .command) :
    exec (wrAt w r v) s = .next ((s.setReg r v).noResponse) := by
  simp [wrAt, exec_writeOf_plain w _ s h, writeReg, writeValue]

/-- Writing the halves of an address to two registers leaves their concatenation the address, and every other register. -/
theorem exec_addressHalves {lo hi : Reg} (hlo : lo ≠ .command) (hhi : hi ≠ .command) (hne : lo ≠ hi) (a : Addr) (s : State) :
    ∃ t u, exec (wrAt .b4 lo (a.extractLsb' 0 32)) s = .next t ∧ exec (wrAt .b4 hi (a.extractLsb' 32 32)) t = .next u ∧
      u.reg hi ++ u.reg lo = a ∧ ∀ q, q ≠ lo → q ≠ hi → u.reg q = s.reg q := by
  refine ⟨_, _, exec_wrAt .b4 _ s hlo, exec_wrAt .b4 _ _ hhi, ?_, fun q hql hqh => ?_⟩
  · simp [State.setReg_reg_other _ _ hne, BitVec.extractLsb'_append_extractLsb' (w := 32) (len := 32) (x := a)]
  · simp [State.setReg_reg_other _ _ hql, State.setReg_reg_other _ _ hqh]

/-- Settles O53: each pair of writes puts the two halves of its address in place and reaches no other register. -/
theorem setAddressMacrosAssembleTheirArgument : Obligations.SetAddressMacrosAssembleTheirArgument := by
  intro a s
  obtain ⟨t, u, ht, hu, ha, hkeep⟩ :=
    exec_addressHalves (lo := .srcLow) (hi := .srcHigh) (by decide) (by decide) (by decide) a s
  obtain ⟨t', u', ht', hu', ha', hkeep'⟩ :=
    exec_addressHalves (lo := .dstLow) (hi := .dstHigh) (by decide) (by decide) (by decide) a s
  refine ⟨⟨_, _, t, u, rfl, ht, hu, ha, ?_, hkeep .size (by decide) (by decide)⟩,
    ⟨_, _, t', u', rfl, ht', hu', ha', ?_, hkeep' .size (by decide) (by decide)⟩⟩
  · rw [State.dst64, hkeep .dstHigh (by decide) (by decide), hkeep .dstLow (by decide) (by decide), State.dst64]
  · rw [State.src64, hkeep' .srcHigh (by decide) (by decide), hkeep' .srcLow (by decide) (by decide), State.src64]

end Sys2Proof.Machine

/-! SUPPORT. The family of the register file: each register's read and write through its descriptor, what a command write may change,
what its transfers leave, the settings of `DUAL_TRIGGER`; then the obligations about register accesses and command writes. -/

namespace Sys2Proof

/-! ### A register's accesses through its descriptor, and the numbers of its data -/

theorem decodeTxn_packDesc_readOf (w : Width) (r : Reg) (wdata : Data) :
    decodeTxn (packDesc false w.code r.offset) wdata = .ok (readOf w r) := by
  rw [decodeTxn_packDesc_read, decodeRead_offset]

theorem decodeTxn_packDesc_writeOf {w : Width} {wdata : Data} (h : w.fits wdata = true) (r : Reg) :
    decodeTxn (packDesc true w.code r.offset) wdata = .ok (writeOf w wdata r) := by
  rw [decodeTxn_packDesc_write _ h, decodeWrite_offset]

theorem decodeTxn_packDesc_rdUnmapped (w : Width) {off : Offset} (wdata : Data) (h : isMapped off = false) :
    decodeTxn (packDesc false w.code off) wdata = .ok (.rdUnmapped w off) := by
  rw [decodeTxn_packDesc_read, decodeRead_unmapped w h]

theorem decodeTxn_packDesc_wrUnmapped {w : Width} {off : Offset} {wdata : Data} (h : isMapped off = false)
    (hfits : w.fits wdata = true) : decodeTxn (packDesc true w.code off) wdata = .ok (.wrUnmapped w off wdata) := by
  rw [decodeTxn_packDesc_write off hfits, decodeWrite_unmapped w wdata h]

theorem Width.bytes_le (w : Width) : w.bytes ≤ 4 := by cases w <;> decide

theorem Width.toNat_lt_of_fits {w : Width} {wdata : Data} (h : w.fits wdata = true) : wdata.toNat < 2 ^ (8 * w.bytes) :=
  of_decide_eq_true h

/-- Data that fit an honoured width are the value of their low word. -/
theorem Width.toNat_setWidth_of_fits {w : Width} {wdata : Data} (h : w.fits wdata = true) :
    (wdata.setWidth 32).toNat = wdata.toNat := by
  have hle : 2 ^ (8 * w.bytes) ≤ 2 ^ 32 := Nat.pow_le_pow_right (by decide) (by have := w.bytes_le; omega)
  rw [BitVec.toNat_setWidth, Nat.mod_eq_of_lt (w.toNat_lt_of_fits h |>.trans_le hle)]

end Sys2Proof

namespace Sys2Proof.Machine

open Sys2Proof

/-! ### Reads and writes of a register -/

theorem exec_readOf {r : Reg} (w : Width) (s : State) (h : r ≠ .status) :
    exec (readOf w r) s = .next (s.respond (responseOf w.bytes ((s.reg r).setWidth 64))) := exec_readOf_plain w s h

theorem exec_writeOf {r : Reg} (w : Width) (wdata : Data) (s : State) (h : r ≠ .command) :
    exec (writeOf w wdata r) s = .next ((s.setReg r (wdata.setWidth 32)).noResponse) := exec_writeOf_plain w wdata s h

theorem exec_rdStatus (w : Width) (s : State) : exec (.rdStatus w) s =
    .next ((legacyClear (s.setReg .status 0)).respond (responseOf w.bytes ((s.reg .status).setWidth 64))) := rfl

/-- Every read, the status read included, responds with the register's value. -/
theorem exec_readOf_response (w : Width) (r : Reg) (s : State) : ∃ t, exec (readOf w r) s = .next t ∧
    t.response = some (responseOf w.bytes ((s.reg r).setWidth 64)) := by
  by_cases h : r = .status
  · subst h
    exact ⟨_, exec_rdStatus w s, rfl⟩
  · exact ⟨_, exec_readOf w s h, rfl⟩

/-- What the bus delivers of a word in an honoured width is the word modulo the width (40_register_file.md R112). -/
theorem toNat_deliver (w : Width) (v : Data) : (deliver w.bytes v).toNat = v.toNat % 2 ^ (8 * w.bytes) :=
  toNat_lowBytes v (w.bytes_le.trans (by decide))

theorem ne_command_of_isDescriptor {r : Reg} (h : isDescriptor r = true) : r ≠ .command := by rintro rfl; cases h

theorem ne_status_of_isDescriptor {r : Reg} (h : isDescriptor r = true) : r ≠ .status := by rintro rfl; cases h

/-- Settles O11: the move runs on the state it has been taken from. -/
theorem stepRunsTheDecodedTransaction : Obligations.StepRunsTheDecodedTransaction := by
  intro s t wdata rest i hf hr hp hd
  rw [step_runMove hf hr hp, State.dropMove_eq hp]
  exact runTransaction_ok _ hd

theorem runAccess_ok {offset width : Nat} {write : Bool} {value : Data} {t : BitVec 16} {wdata : Data} (s : State)
    (h : packAccess offset width write value = .ok (t, wdata)) :
    runAccess offset width write value s = runTransaction t wdata s := by
  simp [runAccess, h]

/-- Settles O12: what the bus packs runs as the transaction it is packed into. -/
theorem stepRunsTheDeliveredAccess : Obligations.StepRunsTheDeliveredAccess := by
  intro s offset width write value t wdata rest i hf hr hp hpack hd
  rw [step_runMove hf hr hp, State.dropMove_eq hp]
  exact (runAccess_ok _ hpack).trans (runTransaction_ok _ hd)

/-- Settles O18: the plain read of `command`, which is 0 in the invariant and after a completed command write. -/
theorem commandReadsZero : Obligations.CommandReadsZero := by
  have hread : ∀ w s, exec (.rdCmd w) s = .next (s.respond (responseOf w.bytes ((s.reg .command).setWidth 64))) :=
    fun w s => exec_readOf (r := .command) w s (by decide)
  refine ⟨fun w x => decodeTxn_packDesc_readOf w .command x, hread, fun w s hs => ?_, fun w wdata s t h => commandWrite_command h⟩
  obtain ⟨hc, _⟩ := hs
  rw [hread, hc]
  rfl

/-- Settles O19: each descriptor register is read and written plainly, and a command write leaves it. -/
theorem descriptorReadsReturnTheLastWrite : Obligations.DescriptorReadsReturnTheLastWrite := by
  refine ⟨fun w x => ?_, fun w s => ?_, fun r w w' wdata s hr => ?_, fun r w wdata s t hr h => ?_⟩
  · exact ⟨decodeTxn_packDesc_readOf w .srcLow x, decodeTxn_packDesc_readOf w .srcHigh x, decodeTxn_packDesc_readOf w .dstLow x,
      decodeTxn_packDesc_readOf w .dstHigh x, decodeTxn_packDesc_readOf w .size x⟩
  · have hread := fun (r : Reg) (hr : isDescriptor r = true) => exec_readOf w s (ne_status_of_isDescriptor hr)
    exact ⟨hread .srcLow rfl, hread .srcHigh rfl, hread .dstLow rfl, hread .dstHigh rfl, hread .size rfl⟩
  · refine ⟨_, _, exec_writeOf w wdata s (ne_command_of_isDescriptor hr), exec_readOf w' _ (ne_status_of_isDescriptor hr), ?_⟩
    simp
  · exact commandWrite_reg h (ne_command_of_isDescriptor hr) (ne_status_of_isDescriptor hr)

/-- Settles O21: the plain read and write of `scratch`; of the other instructions only a command write could reach it, and does not. -/
theorem scratchHoldsWhatWasWritten : Obligations.ScratchHoldsWhatWasWritten := by
  have hread : ∀ w s, exec (.rdScratch w) s = .next (s.respond (responseOf w.bytes ((s.reg .scratch).setWidth 64))) :=
    fun w s => exec_readOf (r := .scratch) w s (by decide)
  refine ⟨fun w x => ⟨decodeTxn_packDesc_readOf w .scratch x, fun h => decodeTxn_packDesc_writeOf h .scratch⟩, hread,
    fun w wdata s => exec_writeOf (r := .scratch) w wdata s (by decide), fun d m w => hread w _, fun i s t h hne => ?_⟩
  rcases exec_reg_cases h .scratch with hc | hw | hq | ⟨hq, _⟩
  · obtain ⟨d, hd⟩ := exec_of_isWriteOf_command (s := s) hc
    exact absurd (commandWrite_reg (hd ▸ h) (by decide) (by decide)) hne
  · exact hw
  · exact absurd hq hne
  · cases hq

/-- Settles O22: the response holds the register zero-extended, and its low bytes as delivered. -/
theorem readDeliversTheLowBytes : Obligations.ReadDeliversTheLowBytes := by
  intro r w s
  obtain ⟨t, ht, hp⟩ := exec_readOf_response w r s
  have hv : ((s.reg r).setWidth 64).toNat = (s.reg r).toNat := BitVec.toNat_setWidth_of_le (by decide)
  exact ⟨t, _, ht, hp, hv, (toNat_deliver w _).trans (by rw [hv])⟩

/-- Settles O23: the low word of data that fit the width is their value. -/
theorem writeReplacesTheWholeRegister : Obligations.WriteReplacesTheWholeRegister := by
  intro r w wdata s hr hfits
  refine ⟨_, exec_writeOf w wdata s hr, ?_, ?_, fun q hq => ?_⟩
  · simpa using Width.toNat_setWidth_of_fits hfits
  · simpa [-BitVec.toNat_setWidth, Width.toNat_setWidth_of_fits hfits] using Width.toNat_lt_of_fits hfits
  · simp [State.setReg_reg_other s _ hq]

/-- Settles O24: the plain write of `interrupt_status`. -/
theorem statusWriteIsARawOverwrite : Obligations.StatusWriteIsARawOverwrite :=
  fun w wdata s => exec_writeOf (r := .status) w wdata s (by decide)

/-! ### The status read -/

theorem legacyClear_intxLevel (s : State) : (legacyClear s).intxLevel = if s.mode = .legacy then false else s.intxLevel := by
  split
  · next h => rw [legacyClear_legacy h]; rfl
  · next h => rw [legacyClear_message h]

theorem legacyClear_events (s : State) :
    (legacyClear s).events = if s.mode = .legacy then s.events ++ [.line false] else s.events := by
  split
  · next h => rw [legacyClear_legacy h]; rfl
  · next h => rw [legacyClear_message h]

/-- Settles O25: the read clears the status and, in legacy mode, the line; a second one finds both so. -/
theorem statusReadReturnsAndClears : Obligations.StatusReadReturnsAndClears := by
  intro w s
  refine ⟨_, exec_rdStatus w s, rfl, by simp, fun q hq => by simp [State.setReg_reg_other s _ hq], fun h => ?_, fun h => ?_,
    State.bufByte_of_localBuffer (by simp), by simp, by simp, fun w' => ⟨_, exec_rdStatus w' _, by simp, ?_⟩⟩
  · simp [legacyClear_intxLevel, legacyClear_events, h]
  · simp [legacyClear_intxLevel, legacyClear_events, h]
  · by_cases h : s.mode = .legacy <;> simp [legacyClear_intxLevel, h]

/-! ### Rejected and unmapped accesses -/

theorem toNat_deliver_sentinel (w : Width) : (deliver w.bytes sentinel).toNat = 2 ^ (8 * w.bytes) - 1 := by
  cases w <;> rfl

/-- Settles O26: the sentinel in eight bytes, and in an honoured width. -/
theorem rejectedReadsReturnTheSentinel : Obligations.RejectedReadsReturnTheSentinel :=
  ⟨fun _ _ => rfl, fun off wdata => decodeTxn_packDesc_wide false off wdata,
    fun w _ _ => ⟨_, rfl, rfl, toNat_deliver_sentinel w⟩,
    fun w _ wdata h => decodeTxn_packDesc_rdUnmapped w wdata h⟩

/-- Settles O27: both kinds are the discarded write. -/
theorem rejectedWritesChangeNothing : Obligations.RejectedWritesChangeNothing :=
  ⟨fun _ _ _ => rfl, fun off wdata => decodeTxn_packDesc_wide true off wdata, fun _ _ _ _ => rfl,
    fun _ _ _ h hfits => decodeTxn_packDesc_wrUnmapped h hfits⟩

/-! ### Descriptor writes and the transfers they allow -/

/-- Two words as the halves of a 64-bit value (41_dma_engine.md R142). -/
theorem toNat_append_words (hi lo : Word) : (hi ++ lo).toNat = hi.toNat * 2 ^ 32 + lo.toNat := by
  rw [BitVec.toNat_append, ← Nat.shiftLeft_add_eq_or_of_lt lo.isLt, Nat.shiftLeft_eq]

theorem two_pow_le_of_high_ne_zero {hi : Word} (lo : Word) (h : hi ≠ 0) : 2 ^ 32 ≤ (hi ++ lo).toNat := by
  have hpos : 0 < hi.toNat := Nat.pos_of_ne_zero fun h0 => h (BitVec.eq_of_toNat_eq h0)
  rw [toNat_append_words]
  omega

/-- No transfer completes from a local offset, or with a size, beyond the buffer. -/
theorem dma_ne_next {dir : Direction} {s : State} (h : 4096 < (s.localOffset dir).toNat ∨ 4096 < (s.reg .size).toNat) (t : State) :
    dma dir s ≠ .next t := by
  intro hd
  obtain ⟨hb, _⟩ := dma_next hd
  have hb : (s.localOffset dir).toNat + (s.reg .size).toNat ≤ 4096 := hb
  omega

/-- Settles O20: the plain writes, and the bound check on what they can leave in the descriptor. -/
theorem descriptorWritesStoreTheLowWord : Obligations.DescriptorWritesStoreTheLowWord := by
  refine ⟨fun w x hx => ?_, fun w wdata s => ?_, fun r wdata s t hr hfits h => ?_, fun s hs => ?_, fun s hs => ?_,
    fun s dir hs => dma_ne_next (.inr hs), fun s dir hsize hoff => ⟨_, dma_inBounds ?_⟩⟩
  · have hdec : ∀ r : Reg, decodeTxn (packDesc true w.code r.offset) x = .ok (writeOf w x r) := decodeTxn_packDesc_writeOf hx
    exact ⟨hdec .srcLow, hdec .srcHigh, hdec .dstLow, hdec .dstHigh, hdec .size⟩
  · have hwrite := fun (r : Reg) (hr : isDescriptor r = true) => exec_writeOf w wdata s (ne_command_of_isDescriptor hr)
    exact ⟨hwrite .srcLow rfl, hwrite .srcHigh rfl, hwrite .dstLow rfl, hwrite .dstHigh rfl, hwrite .size rfl⟩
  · obtain ⟨t', ht', hv, hlt, _⟩ := writeReplacesTheWholeRegister r .b1 wdata s (ne_command_of_isDescriptor hr) hfits
    obtain rfl : t' = t := Host.Outcome.next.inj (ht'.symm.trans h)
    exact ⟨hv, hlt⟩
  · exact dma_ne_next (.inl (Nat.lt_of_lt_of_le (by decide) (two_pow_le_of_high_ne_zero (s.reg .srcLow) hs)))
  · exact dma_ne_next (.inl (Nat.lt_of_lt_of_le (by decide) (two_pow_le_of_high_ne_zero (s.reg .dstLow) hs)))
  · simp only [InBounds, State.transferSize, hsize]
    simpa using hoff

/-! ### What a command write may change -/

/-- Settles O34: it completes, and then leaves the registers as every completed command write does. -/
theorem commandWriteCompletesInBounds : Obligations.CommandWriteCompletesInBounds := by
  intro w wdata s hr hw
  obtain ⟨t, ht⟩ := commandWrite_completes Config.dualTrigger (writeValue wdata) hr hw
  exact ⟨t, ht, commandWrite_command ht, fun q hs hc => commandWrite_reg ht hc hs⟩

/-- With no trigger bit set a command write stores `command` and clears it again. -/
theorem commandWrite_of_neither (dt : DualTrigger) {v : Word} (s : State) (h0 : v.getLsbD 0 = false) (h1 : v.getLsbD 1 = false) :
    commandWrite dt v s = .next ((s.setReg .command 0).noResponse) := by
  unfold commandWrite trigger
  simp only [readBit, writeBit, h0, h1]
  rfl

/-- Settles O29: the trigger bits of the command value are those of the data. -/
theorem commandWithoutATriggerBitDoesNothing : Obligations.CommandWithoutATriggerBitDoesNothing := by
  intro w wdata s h0 h1
  rw [exec_wrCmd]
  exact commandWrite_of_neither _ s ((readBit_writeValue wdata).trans h0) ((writeBit_writeValue wdata).trans h1)

/-- The state in which a command write starts its transfers (40_register_file.md R101). -/
abbrev State.withCommand (s : State) (v : Word) : State := (s.setReg .command v).noResponse

/-- The components a command write may not change, and the bytes it may not: those outside the read direction's local range, and
all of them where its read bit is clear. -/
structure CommandFrame (v : Word) (s u : State) : Prop where
  descriptor : ∀ q, isDescriptor q = true → u.reg q = s.reg q
  bufByte : ∀ a, (¬ InRange .read s a ∨ readBit v = false) → u.bufByte a = s.bufByte a
  counter : s.mode ≠ .multiVector → u.vectorTurnCounter = s.vectorTurnCounter
  line : s.mode ≠ .legacy → u.intxLevel = s.intxLevel
  mode : u.mode = s.mode
  pending : u.pending = s.pending
  response : u.response = none
  faulted : u.faulted = s.faulted
  refused : u.refused = s.refused

theorem lineAfter_of_ne {m : Mode} (h : m ≠ .legacy) (level : Bool) : lineAfter m level = level := by
  cases m with
  | multiVector => rfl
  | singleVector => rfl
  | legacy => exact absurd rfl h

theorem transfer_counter_of_ne (dir : Direction) (ext loc : Addr) (n : Word) {s : State} (h : s.mode ≠ .multiVector) :
    (transfer dir ext loc n s).vectorTurnCounter = s.vectorTurnCounter := by
  obtain ⟨_, hdone | hfailed⟩ := transfer_cases dir ext loc n s
  · rw [hdone.counter, counterAfter_of_ne h]
  · exact hfailed.counter

theorem transfer_line_of_ne (dir : Direction) (ext loc : Addr) (n : Word) {s : State} (h : s.mode ≠ .legacy) :
    (transfer dir ext loc n s).intxLevel = s.intxLevel := by
  obtain ⟨_, hdone | hfailed⟩ := transfer_cases dir ext loc n s
  · rw [hdone.line, lineAfter_of_ne h]
  · exact hfailed.line

/-- The transfer `DMA(dir)` makes where it is in bounds. -/
def State.transferred (s : State) (dir : Direction) : State :=
  transfer dir (s.extAddr dir) (s.localOffset dir) s.transferSize s

theorem dma_eq_transferred {dir : Direction} {s : State} (h : InBounds dir s) : dma dir s = .next (s.transferred dir) :=
  dma_inBounds h

theorem State.transferred_frame (s : State) (dir : Direction) : TransferFrame s (s.transferred dir) :=
  (transfer_cases dir _ _ _ s).1

theorem State.transferred_descriptor (s : State) (dir : Direction) {q : Reg} (hq : isDescriptor q = true) :
    (s.transferred dir).reg q = s.reg q :=
  (s.transferred_frame dir).reg q (ne_status_of_isDescriptor hq)

/-- A command write's transfers keep its frame; a read transfer is one of them only if the read bit is set. -/
theorem CommandFrame.transferred {v : Word} {s u : State} {dir : Direction} (h : CommandFrame v s u)
    (hdir : dir = .read → readBit v = true) : CommandFrame v s (u.transferred dir) := by
  have hframe := u.transferred_frame dir
  have hbuf : ∀ a, (¬ InRange .read s a ∨ readBit v = false) → (u.transferred dir).bufByte a = u.bufByte a := by
    intro a ha
    refine transfer_bufByte dir _ _ _ u a ?_
    cases dir with
    | write => exact .inl rfl
    | read =>
      rw [State.localOffset_congr h.descriptor, State.transferSize_congr h.descriptor]
      exact .inr (ha.resolve_right (by simp [hdir rfl]))
  exact {
    descriptor := fun q hq => (u.transferred_descriptor dir hq).trans (h.descriptor q hq)
    bufByte := fun a ha => (hbuf a ha).trans (h.bufByte a ha)
    counter := fun hm => (transfer_counter_of_ne dir _ _ _ (h.mode ▸ hm)).trans (h.counter hm)
    line := fun hm => (transfer_line_of_ne dir _ _ _ (h.mode ▸ hm)).trans (h.line hm)
    mode := hframe.mode.trans h.mode
    pending := hframe.pending.trans h.pending
    response := hframe.response.trans h.response
    faulted := hframe.faulted.trans h.faulted
    refused := hframe.refused.trans h.refused }

/-- The frame depends on no value of `command`. -/
theorem CommandFrame.setReg_command {v : Word} {s u : State} (h : CommandFrame v s u) (x : Word) :
    CommandFrame v s (u.setReg .command x) := by
  obtain ⟨hd, hb, hc, hl, hm, hp, hr, hf, hrf⟩ := h
  exact ⟨fun q hq => (State.setReg_reg_other u x (ne_command_of_isDescriptor hq)).trans (hd q hq), hb, hc, hl, hm, hp, hr, hf, hrf⟩

theorem commandFrame_start (v : Word) (s : State) : CommandFrame v s (s.withCommand v) where
  descriptor q hq := by simp [State.setReg_reg_other s v (ne_command_of_isDescriptor hq)]
  bufByte _ _ := rfl
  counter _ := rfl
  line _ := rfl
  mode := rfl
  pending := rfl
  response := rfl
  faulted := rfl
  refused := rfl

/-- Every completed command write stays within its frame. -/
theorem commandWrite_frame {dt : DualTrigger} {v : Word} {s t : State} (h : commandWrite dt v s = .next t) :
    CommandFrame v s t := by
  obtain ⟨u, hu, rfl⟩ := commandWrite_next h
  suffices hf : CommandFrame v s u from hf.setReg_command 0
  refine trigger_keeps hu (commandFrame_start v s) fun dir x y hdir hx hy => ?_
  obtain ⟨_, rfl⟩ := dma_next hy
  exact hx.transferred hdir

/-- Settles O52: the frame of `WR.CMD`, whose read bit is bit 0 of its data. -/
theorem commandWriteFrame : Obligations.CommandWriteFrame := by
  intro w wdata s t h
  rw [exec_wrCmd] at h
  have hf := commandWrite_frame h
  exact ⟨fun q hc hs => commandWrite_reg h hc hs, fun a ha => hf.bufByte a (.inl ha),
    fun h0 a => hf.bufByte a (.inr ((readBit_writeValue wdata).trans h0)), hf.counter, hf.line, hf.mode, hf.pending, hf.response,
    hf.faulted, hf.refused⟩

/-! ### The transfers of `DUAL_TRIGGER` (40_register_file.md R101, D12) -/

/-- The events gained from `s` to `t` hold external calls of these directions, in this order, and no others. -/
def CallsMade (dirs : List Direction) (s t : State) : Prop :=
  ∃ es, t.events = s.events ++ es ∧ es.filterMap eventDirection = dirs

theorem CallsMade.trans {ds es : List Direction} {s t u : State} (h : CallsMade ds s t) (h' : CallsMade es t u) :
    CallsMade (ds ++ es) s u := by
  obtain ⟨x, hx, hxd⟩ := h
  obtain ⟨y, hy, hyd⟩ := h'
  exact ⟨x ++ y, by rw [hy, hx, List.append_assoc], by rw [List.filterMap_append, hxd, hyd]⟩

theorem callsMade_dma {dir : Direction} {s t : State} (h : dma dir s = .next t) : CallsMade [dir] s t := by
  obtain ⟨es, he, hd, _⟩ := eachTransferMakesOneExternalCall dir s t h
  exact ⟨es, he, hd⟩

theorem callsMade_dualTransfer {dt : DualTrigger} {s t : State} (h : dualTransfer dt s = .next t) :
    CallsMade (dualDirections dt) s t := by
  cases dt with
  | readOnly => exact callsMade_dma h
  | writeOnly => exact callsMade_dma h
  | readThenWrite =>
    obtain ⟨u, h1, h2⟩ := andThen_eq_next h
    exact (callsMade_dma h1).trans (callsMade_dma h2)
  | writeThenRead =>
    obtain ⟨u, h1, h2⟩ := andThen_eq_next h
    exact (callsMade_dma h1).trans (callsMade_dma h2)

/-- Settles O35: storing and clearing `command` produces no event, so the calls are those of the transfers. -/
theorem dualTriggerStartsItsTransfersInOrder : Obligations.DualTriggerStartsItsTransfersInOrder := by
  refine ⟨exec_wrCmd, fun dt v s t h0 h1 h => ?_⟩
  rw [commandWrite_of_both dt s h0 h1] at h
  obtain ⟨u, hu, hc⟩ := andThen_eq_next h
  obtain rfl : u.setReg .command 0 = t := Host.Outcome.next.inj hc
  have hcalls : CallsMade (dualDirections dt) (s.withCommand v) u := callsMade_dualTransfer hu
  exact hcalls

theorem dualTransfer_of_single {dt : DualTrigger} {dir : Direction} (h : dualDirections dt = [dir]) (s : State) :
    dualTransfer dt s = dma dir s := by
  cases dt <;> cases h <;> rfl

theorem dualTransfer_of_two {dt : DualTrigger} {first second : Direction} (h : dualDirections dt = [first, second]) (s : State) :
    dualTransfer dt s = andThen (dma first s) (dma second) := by
  cases dt <;> cases h <;> rfl

/-- The trigger bit of a direction, as a data operand, selects that direction. -/
theorem selects_code (dir : Direction) : Selects dir ((Direction.code dir).setWidth 64) := by
  cases dir <;> exact ⟨by decide, by decide⟩

theorem dispatch_setReg_command (s : State) (v : Word) : dispatch (s.setReg .command v) = (dispatch s).setReg .command v := by
  simp only [dispatch_eq]
  rfl

/-- A transfer neither reads nor writes `command`. -/
theorem transfer_setReg_command (dir : Direction) (ext loc : Addr) (n : Word) (s : State) (v : Word) :
    transfer dir ext loc n (s.setReg .command v) = (transfer dir ext loc n s).setReg .command v := by
  have hcomplete : ∀ x : State, complete dir (x.setReg .command v) = (complete dir x).setReg .command v :=
    fun x => dispatch_setReg_command (x.setStatus dir) v
  cases dir with
  | read =>
    have hr : (s.setReg .command v).readResult n = s.readResult n := rfl
    simp only [transfer, dmaRead, hr]
    split
    · exact hcomplete ((s.memRead ext n).copyIn loc.toNat _)
    · rfl
  | write =>
    have hw : (s.setReg .command v).writeResult = s.writeResult := rfl
    simp only [transfer, dmaWrite, hw]
    split
    · exact hcomplete (s.memWrite ext n (s.bufBytes loc.toNat n.toNat))
    · rfl

theorem State.transferred_setReg_command (s : State) (dir : Direction) (v : Word) :
    (s.setReg .command v).transferred dir = (s.transferred dir).setReg .command v := by
  cases dir <;> exact transfer_setReg_command _ _ _ _ s v

/-- What a transfer in bounds and the clear of `command` leave does not depend on the command value that triggered it. -/
theorem dma_andThen_clearCommand {dir : Direction} {s : State} (h : InBounds dir s) (v : Word) :
    andThen (dma dir (s.withCommand v)) clearCommand =
      .next ((s.noResponse.transferred dir).setReg .command 0) := by
  have hb : InBounds dir (s.withCommand v) := (inBounds_congr (commandFrame_start v s).descriptor dir).mpr h
  have ht : (s.withCommand v).transferred dir = (s.noResponse.transferred dir).setReg .command v :=
    s.noResponse.transferred_setReg_command dir v
  rw [dma_eq_transferred hb, ht]
  rfl

/-- Settles O56: both are the same transfer and the clear of `command`. -/
theorem singleTransferSettingsActAsThatBitAlone : Obligations.SingleTransferSettingsActAsThatBitAlone := by
  intro dt dir w v s h0 h1 hdt hb
  rw [commandWrite_of_both dt s h0 h1, dualTransfer_of_single hdt, exec_wrCmd_of_selects w s (selects_code dir),
    dma_andThen_clearCommand hb, dma_andThen_clearCommand hb]

/-! ### Two transfers that both succeed -/

/-- The answers and the index of free values that the next external call draws on are the same. -/
structure SamePort (s t : State) : Prop where
  extAnswers : t.extAnswers = s.extAnswers
  draws : t.draws = s.draws

theorem SamePort.nextAnswer {s t : State} (h : SamePort s t) : t.nextAnswer = s.nextAnswer := by
  unfold State.nextAnswer
  rw [h.extAnswers, h.draws]

theorem SamePort.readResult {s t : State} (h : SamePort s t) (n : Word) : t.readResult n = s.readResult n := by
  unfold State.readResult
  rw [h.nextAnswer, h.draws]

theorem SamePort.writeResult {s t : State} (h : SamePort s t) : t.writeResult = s.writeResult := by
  unfold State.writeResult
  rw [h.nextAnswer]

theorem nextAnswer_of_readResult {s : State} {n : Word} {bytes : List Byte} (h : s.readResult n = .ok bytes) :
    ∃ bs, s.nextAnswer = .ok bs := by
  cases ha : s.nextAnswer with
  | ok bs => exact ⟨bs, rfl⟩
  | fail =>
    rw [State.readResult_fail n ha] at h
    cases h

theorem nextAnswer_of_writeResult {s : State} (h : s.writeResult = true) : ∃ bs, s.nextAnswer = .ok bs := by
  cases ha : s.nextAnswer with
  | ok bs => exact ⟨bs, rfl⟩
  | fail =>
    rw [State.writeResult_fail ha] at h
    cases h

/-- A successful transfer: its outcome, one answer and one index used up, and the buffer's list it leaves. -/
structure TransferOk (dir : Direction) (e : Event) (m : Memory) (u t : State) : Prop where
  done : TransferDone dir e u t
  port : SamePort u.useAnswer t
  localBuffer : t.localBuffer = m

/-- A successful read, from a state with the descriptor of `s`, copies the bytes of the answer in (41_dma_engine.md R149 to R151). -/
theorem transferred_read_ok {s u : State} {bytes : List Byte} (hd : ∀ q, isDescriptor q = true → u.reg q = s.reg q)
    (h : u.readResult (s.reg .size) = .ok bytes) :
    TransferOk .read (.extRead s.src64 (s.reg .size) (.ok bytes)) (Memory.writeBytes u.localBuffer s.dst64.toNat bytes)
      u (u.transferred .read) := by
  obtain ⟨bs, hbs⟩ := nextAnswer_of_readResult h
  have ht : u.transferred .read = transfer .read s.src64 s.dst64 (s.reg .size) u := by
    rw [← State.src64_congr hd, ← State.dst64_congr hd, ← hd .size rfl]
    rfl
  obtain ⟨hframe, hdone⟩ := transfer_of_ok .read s.src64 s.dst64 (s.reg .size) hbs
  simp only [callEvent, h] at hdone
  rw [ht]
  refine ⟨hdone, ⟨hframe.extAnswers, ?_⟩, ?_⟩ <;> simp [transfer, dmaRead, h, complete, State.memRead_eq]

/-- A successful write, from a state with the descriptor of `s`, sends the buffer's bytes and leaves the buffer (41_dma_engine.md
R153 to R155). -/
theorem transferred_write_ok {s u : State} (hd : ∀ q, isDescriptor q = true → u.reg q = s.reg q) (h : u.writeResult = true) :
    TransferOk .write (.extWrite s.dst64 (s.reg .size) (u.bufBytes s.src64.toNat (s.reg .size).toNat) true) u.localBuffer
      u (u.transferred .write) := by
  obtain ⟨bs, hbs⟩ := nextAnswer_of_writeResult h
  have ht : u.transferred .write = transfer .write s.dst64 s.src64 (s.reg .size) u := by
    rw [← State.src64_congr hd, ← State.dst64_congr hd, ← hd .size rfl]
    rfl
  obtain ⟨hframe, hdone⟩ := transfer_of_ok .write s.dst64 s.src64 (s.reg .size) hbs
  simp only [callEvent, h] at hdone
  rw [ht]
  refine ⟨hdone, ⟨hframe.extAnswers, ?_⟩, ?_⟩ <;> simp [transfer, dmaWrite, h, complete, State.memWrite_eq]

/-- Two transfers that succeeded, the second of them in direction `dir` (42_interrupt_dispatcher.md R171 to R175 taken twice). -/
structure TwoTransfersDone (dir : Direction) (e e' : Event) (s t : State) : Prop where
  status : t.reg .status = Direction.code dir
  events : t.events = s.events ++
    [e, signalOf s.mode s.vectorTurnCounter, e', signalOf s.mode (counterAfter s.mode s.vectorTurnCounter)]
  counter : t.vectorTurnCounter = counterAfter s.mode (counterAfter s.mode s.vectorTurnCounter)
  line : t.intxLevel = lineAfter s.mode s.intxLevel

@[simp] theorem lineAfter_lineAfter (m : Mode) (level : Bool) : lineAfter m (lineAfter m level) = lineAfter m level := by
  cases m <;> rfl

theorem TransferDone.followedBy {first second : Direction} {e e' : Event} {s u t : State} (h : TransferDone first e s u)
    (hmode : u.mode = s.mode) (h' : TransferDone second e' u t) : TwoTransfersDone second e e' s t where
  status := h'.status
  events := by simp [h'.events, h.events, h.counter, hmode]
  counter := by rw [h'.counter, h.counter, hmode]
  line := by rw [h'.line, h.line, hmode, lineAfter_lineAfter]

/-- In bounds, a two-transfer setting makes the one transfer, then the other, then clears `command`. -/
theorem commandWrite_of_two {dt : DualTrigger} {first second : Direction} {v : Word} {s : State} (h0 : v.getLsbD 0 = true)
    (h1 : v.getLsbD 1 = true) (hdt : dualDirections dt = [first, second]) (hfirst : InBounds first s) (hsecond : InBounds second s) :
    commandWrite dt v s =
      .next ((((s.withCommand v).transferred first).transferred second).setReg .command 0) := by
  have hd := (commandFrame_start v s).descriptor
  have hd' : ∀ q, isDescriptor q = true → ((s.withCommand v).transferred first).reg q = s.reg q :=
    fun q hq => (State.transferred_descriptor _ first hq).trans (hd q hq)
  rw [commandWrite_of_both dt s h0 h1, dualTransfer_of_two hdt, dma_eq_transferred ((inBounds_congr hd first).mpr hfirst),
    andThen_next, dma_eq_transferred ((inBounds_congr hd' second).mpr hsecond)]
  rfl

/-- A command write whose two transfers both succeed. -/
theorem commandWrite_of_two_ok {dt : DualTrigger} {first second : Direction} {v : Word} {s : State} {e e' : Event} {m m' : Memory}
    (h0 : v.getLsbD 0 = true) (h1 : v.getLsbD 1 = true) (hdt : dualDirections dt = [first, second]) (hfirst : InBounds first s)
    (hsecond : InBounds second s)
    (hok : TransferOk first e m (s.withCommand v) ((s.withCommand v).transferred first))
    (hok' : TransferOk second e' m' ((s.withCommand v).transferred first)
      (((s.withCommand v).transferred first).transferred second)) :
    ∃ t, commandWrite dt v s = .next t ∧ TwoTransfersDone second e e' s t ∧ t.localBuffer = m' := by
  obtain ⟨hstatus, hevents, hcounter, hline⟩ := hok.done.followedBy (State.transferred_frame _ first).mode hok'.done
  exact ⟨_, commandWrite_of_two h0 h1 hdt hfirst hsecond, ⟨hstatus, hevents, hcounter, hline⟩, hok'.localBuffer⟩

/-- Bytes just written to the buffer's list read back. -/
theorem State.bufByte_of_writeBytes {s t : State} {loc : Nat} {bytes : List Byte}
    (h : t.localBuffer = Memory.writeBytes s.localBuffer loc bytes) (i : Nat) (hi : i < bytes.length) :
    t.bufByte (loc + i) = bytes[i] :=
  (State.bufByte_of_localBuffer (t := s.copyIn loc bytes) h _).trans (State.bufByte_copyIn_in s loc bytes i hi)

/-- The bytes sent from a buffer are those of any state that holds the same buffer. -/
theorem State.getElem_bufBytes_of_localBuffer {s t : State} (h : s.localBuffer = t.localBuffer) (loc n i : Nat)
    (hi : i < (s.bufBytes loc n).length) : (s.bufBytes loc n)[i] = t.bufByte (loc + i) :=
  (State.getElem_bufBytes s loc n i hi).trans (State.bufByte_of_localBuffer h _)

/-- Settles O54: each order is two successful transfers, the second from the port and the buffer the first leaves, within the frame
of a command write. -/
theorem dualTriggerRunsBothTransfersInOrder : Obligations.DualTriggerRunsBothTransfersInOrder := by
  intro v s bytes h0 h1 hbr hbw
  have hd := (commandFrame_start v s).descriptor
  have hd' : ∀ dir q, isDescriptor q = true → ((s.withCommand v).transferred dir).reg q = s.reg q :=
    fun dir q hq => (State.transferred_descriptor _ dir hq).trans (hd q hq)
  refine ⟨fun hr hw => ?_, fun hw hr => ?_⟩
  · have hread := transferred_read_ok (u := s.withCommand v) hd hr
    have hwrite := transferred_write_ok (hd' .read) (hread.port.writeResult.trans hw)
    obtain ⟨t, ht, hdone, hbuf⟩ := commandWrite_of_two_ok (dt := .readThenWrite) h0 h1 rfl hbr hbw hread hwrite
    have hf := commandWrite_frame ht
    exact ⟨t, _, ht, State.length_of_readResult hr, State.bufByte_of_writeBytes (hbuf.trans hread.localBuffer),
      fun a ha => hf.bufByte a (.inl ha), State.length_bufBytes _ _ _, State.getElem_bufBytes_of_localBuffer hbuf.symm _ _,
      hdone.status, commandWrite_command ht, fun q hs hc => commandWrite_reg ht hc hs, hdone.events, hdone.counter, hdone.line,
      hf.mode, hf.pending, hf.response, hf.faulted, hf.refused⟩
  · have hwrite := transferred_write_ok (u := s.withCommand v) hd hw
    have hread := transferred_read_ok (hd' .write) ((hwrite.port.readResult _).trans hr)
    obtain ⟨t, ht, hdone, hbuf⟩ := commandWrite_of_two_ok (dt := .writeThenRead) h0 h1 rfl hbw hbr hwrite hread
    have hf := commandWrite_frame ht
    exact ⟨t, _, ht, State.length_of_readResult hr, State.bufByte_of_writeBytes hbuf,
      fun a ha => hf.bufByte a (.inl ha), State.length_bufBytes _ _ _, State.getElem_bufBytes_of_localBuffer rfl _ _,
      hdone.status, commandWrite_command ht, fun q hs hc => commandWrite_reg ht hc hs, hdone.events, hdone.counter, hdone.line,
      hf.mode, hf.pending, hf.response, hf.faulted, hf.refused⟩

end Sys2Proof.Machine

/-! SUPPORT. The family of the DMA Engine: the assembled addresses, a command write whose one transfer succeeds, the overrun of the
first transfer, the copy state machine. -/

namespace Sys2Proof.Machine

open Sys2Proof

/-! ### The addresses -/

/-- Concatenating two words is shifting the high one up and or'ing the low one in. -/
theorem append_words (hi lo : Word) : (hi ++ lo : Addr) = hi.setWidth 64 <<< 32 ||| lo.setWidth 64 :=
  (BitVec.setWidth_eq (hi ++ lo)).symm.trans BitVec.setWidth_append_eq_shiftLeft_setWidth_or

/-- Settles O28: each address is the concatenation of its two halves. -/
theorem addressesAreAssembledFromTheHalves : Obligations.AddressesAreAssembledFromTheHalves := fun _ =>
  ⟨append_words _ _, append_words _ _, toNat_append_words _ _, toNat_append_words _ _⟩

/-! ### One transfer that succeeds -/

/-- A completed `WR.CMD` stays within the frame of a command write, clears `command`, and of the other registers reaches only the
status (40_register_file.md R101). -/
theorem exec_wrCmd_next {w : Width} {wdata : Data} {s t : State} (h : exec (.wrCmd w wdata) s = .next t) :
    CommandFrame (writeValue wdata) s t ∧ t.reg .command = 0 ∧ ∀ q, q ≠ .status → q ≠ .command → t.reg q = s.reg q := by
  rw [exec_wrCmd] at h
  exact ⟨commandWrite_frame h, commandWrite_command h, fun q hs hc => commandWrite_reg h hc hs⟩

/-- A command write whose one transfer succeeds has that transfer's outcome and leaves its buffer. -/
theorem exec_wrCmd_of_transferOk {dir : Direction} {wdata : Data} {s : State} {e : Event} {m : Memory} (w : Width)
    (h : Selects dir wdata) (hb : InBounds dir s) (hok : TransferOk dir e m s.noResponse (s.noResponse.transferred dir)) :
    ∃ t, exec (.wrCmd w wdata) s = .next t ∧ TransferDone dir e s t ∧ t.localBuffer = m := by
  obtain ⟨hstatus, hevents, hcounter, hline⟩ := hok.done
  exact ⟨_, (exec_wrCmd_of_selects w s h).trans (dma_andThen_clearCommand hb _), ⟨hstatus, hevents, hcounter, hline⟩,
    hok.localBuffer⟩

/-- Settles O30: the read's outcome and its buffer, within the frame of a command write. -/
theorem readTransferCopiesExternalBytesIn : Obligations.ReadTransferCopiesExternalBytesIn := by
  intro w wdata s bytes hsel hb hr
  have hok := transferred_read_ok (s := s) (u := s.noResponse) (fun q _ => State.noResponse_reg s q) hr
  obtain ⟨t, ht, hdone, hbuf⟩ := exec_wrCmd_of_transferOk w hsel hb hok
  obtain ⟨hf, hcmd, hregs⟩ := exec_wrCmd_next ht
  exact ⟨t, ht, State.length_of_readResult hr, State.bufByte_of_writeBytes hbuf, fun a ha => hf.bufByte a (.inl ha),
    hdone.status, hcmd, hregs, hdone.events, hdone.counter, hdone.line, hf.mode, hf.pending, hf.response, hf.faulted, hf.refused⟩

/-- Settles O31: the write's outcome within the frame of a command write, whose read bit is clear. -/
theorem writeTransferSendsBufferBytesOut : Obligations.WriteTransferSendsBufferBytesOut := by
  refine ⟨fun w wdata s hsel hb hw => ?_, fun w wdata s t hsel h a => ?_⟩
  · have hok := transferred_write_ok (s := s) (u := s.noResponse) (fun q _ => State.noResponse_reg s q) hw
    obtain ⟨t, ht, hdone, _⟩ := exec_wrCmd_of_transferOk w hsel hb hok
    obtain ⟨hf, hcmd, hregs⟩ := exec_wrCmd_next ht
    exact ⟨t, _, ht, State.length_bufBytes _ _ _, State.getElem_bufBytes_of_localBuffer rfl _ _, hdone.status, hcmd, hregs,
      hdone.events, hdone.counter, hdone.line, hf.mode, hf.pending, hf.response, hf.faulted, hf.refused⟩
  · obtain ⟨h0, _⟩ : wdata.getLsbD 0 = false ∧ wdata.getLsbD 1 = true := hsel
    obtain ⟨hf, _⟩ := exec_wrCmd_next h
    exact hf.bufByte a (.inr ((readBit_writeValue wdata).trans h0))

/-- Settles O37: a transfer of size 0 up to offset 4096 is in bounds, its range is empty, and its call carries no byte. -/
theorem zeroLengthTransferMovesNothing : Obligations.ZeroLengthTransferMovesNothing := by
  intro dir w wdata s bytes hsel hsize hoff hans
  have hn : (s.reg .size).toNat = 0 := by rw [hsize]; rfl
  have hb : InBounds dir s := show (s.localOffset dir).toNat + (s.reg .size).toNat ≤ 4096 by omega
  cases dir with
  | read =>
    have hr : s.readResult (s.reg .size) = .ok [] := by simp [State.readResult, hans, hsize, fillBytes]
    obtain ⟨t, ht, _, _, hbuf, hstatus, _, _, hevents, _⟩ := readTransferCopiesExternalBytesIn w wdata s [] hsel hb hr
    have hempty : ∀ a, ¬ InRange .read s a := fun a ⟨hlo, hhi⟩ => by
      rw [State.transferSize, hn] at hhi
      omega
    rw [hsize] at hevents
    exact ⟨t, _, ht, fun a => hbuf a (hempty a), hstatus, hevents, fun _ => rfl, fun h => by cases h⟩
  | write =>
    have hw : s.writeResult = true := by simp [State.writeResult, hans]
    obtain ⟨hsends, hkeeps⟩ := writeTransferSendsBufferBytesOut
    obtain ⟨t, sent, ht, hlen, _, hstatus, _, _, hevents, _⟩ := hsends w wdata s hsel hb hw
    obtain rfl : sent = [] := List.eq_nil_of_length_eq_zero (hlen.trans hn)
    rw [hsize] at hevents
    exact ⟨t, _, ht, hkeeps w wdata s t hsel ht, hstatus, hevents, fun h => (by cases h), fun _ => rfl⟩

/-! ### The overrun of the first transfer -/

/-- Out of bounds, the first transfer of a command write faults in the state the command value has been stored in. -/
theorem dma_withCommand_overrun {dir : Direction} {s : State} (v : Word) (h : ¬ InBounds dir s) :
    dma dir (s.withCommand v) = .fault (.bufferOverrun dir (s.localOffset dir) (s.reg .size)
      { s with command := v, response := none, faulted := true }) := by
  have hd := (commandFrame_start v s).descriptor
  rw [dma_overrun (mt (inBounds_congr hd dir).mp h), State.localOffset_congr hd, State.transferSize_congr hd]
  rfl

/-- A fault of the first of the transfers of `DUAL_TRIGGER` ends them all. -/
theorem dualTransfer_of_head_fault {dt : DualTrigger} {dir : Direction} {s : State} {r : Fault}
    (hdt : (dualDirections dt).head? = some dir) (h : dma dir s = .fault r) : dualTransfer dt s = .fault r := by
  cases dt <;> cases hdt <;> simp [dualTransfer, h]

/-- Settles O33: the fault of the first transfer is the outcome of the whole command write. -/
theorem overrunFaultsBeforeAnyAccess : Obligations.OverrunFaultsBeforeAnyAccess := by
  refine ⟨fun dir w wdata s hsel hb => ?_, fun dt dir v s h0 h1 hdt hb => ?_⟩
  · rw [exec_wrCmd_of_selects w s hsel, dma_withCommand_overrun _ hb]
    rfl
  · rw [commandWrite_of_both dt s h0 h1, dualTransfer_of_head_fault hdt (dma_withCommand_overrun v hb)]
    rfl

/-! ### The copy state machine (41_dma_engine.md R145) -/

@[simp] theorem fsmRun_idle (k : Nat) (s : State) : fsmRun k .idle s = some (.next s) := by cases k <;> rfl

/-- From `ASSEMBLE` two transitions lead through the bound check. -/
theorem fsmRun_assemble (dir : Direction) (s : State) (k : Nat) :
    fsmRun (k + 2) (.assemble dir) s =
      fsmRun k (if overruns (s.localOffset dir) s.transferSize then .overrun dir (s.localOffset dir) s.transferSize
        else .xfer dir (s.extAddr dir) (s.localOffset dir) s.transferSize) s := rfl

/-- From `OVERRUN` the machine raises the fault. -/
theorem fsmRun_overrun (dir : Direction) (loc : Addr) (n : Word) (s : State) (k : Nat) :
    fsmRun (k + 1) (.overrun dir loc n) s = some (raiseOverrun dir loc n s) := rfl

/-- From `XFER` the machine makes the external call and then, as it is answered, completes or fails, which is the transfer. -/
theorem fsmRun_xfer (dir : Direction) (ext loc : Addr) (n : Word) (s : State) (k : Nat) :
    fsmRun (k + 2) (.xfer dir ext loc n) s = some (.next (transfer dir ext loc n s)) := by
  have hcall : fsmRun (k + 2) (.xfer dir ext loc n) s =
    fsmRun (k + 1) (fsmXfer dir ext loc n s).1 (fsmXfer dir ext loc n s).2 := rfl
  rw [hcall]
  cases dir with
  | read =>
    cases h : s.readResult n <;> simp only [fsmXfer, transfer, dmaRead, h] <;> exact fsmRun_idle k _
  | write =>
    cases h : s.writeResult <;> simp only [fsmXfer, transfer, dmaWrite, h] <;> exact fsmRun_idle k _

/-- Settles O39: the bound check sends the machine to `OVERRUN` or to `XFER`, as it sends `DMA(dir)` to the fault or the transfer. -/
theorem copyStateMachineComputesTheTransfer : Obligations.CopyStateMachineComputesTheTransfer := by
  intro dir s
  rw [fsmRun_assemble dir s 3, dma]
  split
  · exact fsmRun_overrun dir _ _ s 2
  · exact fsmRun_xfer dir _ _ _ s 1

end Sys2Proof.Machine

/-! SUPPORT. The family of the interrupt dispatcher: a dispatch by the mode, runs of dispatches in multi-vector mode, what moves the
legacy line, and the line's agreement with the status. -/

namespace Sys2Proof.Machine

open Sys2Proof

/-! ### Dispatches -/

/-- Settles O40: the signal, the counter and the line are those of the mode, and a dispatch reaches nothing else. -/
theorem dispatchSignalsByTheMode : Obligations.DispatchSignalsByTheMode := by
  intro s
  refine ⟨dispatch_events s, fun h => ?_, fun h => ?_, fun h => ?_, fun h => ?_, dispatch_reg s, dispatch_localBuffer s,
    dispatch_mode s⟩
  · rw [dispatch_vectorTurnCounter, h, counterAfter]
  · rw [dispatch_vectorTurnCounter, counterAfter_of_ne h]
  · rw [dispatch_intxLevel, h, lineAfter]
  · rw [dispatch_intxLevel, lineAfter_of_ne h]

/-- The last of a run of dispatches, taken off at its end. -/
theorem dispatches_succ (k : Nat) (s : State) : dispatches (k + 1) s = dispatch (dispatches k s) := by
  induction k generalizing s with
  | zero => rfl
  | succ k ih => exact ih (dispatch s)

@[simp] theorem dispatches_mode (k : Nat) (s : State) : (dispatches k s).mode = s.mode := by
  induction k with
  | zero => rfl
  | succ k ih => rw [dispatches_succ, dispatch_mode, ih]

theorem ofNat_one_eq_zero_iff (k : Nat) : BitVec.ofNat 1 k = 0#1 ↔ k % 2 = 0 := by
  simp [← BitVec.toNat_inj]

/-- Turning the counter counts a dispatch, modulo 2 (42_interrupt_dispatcher.md R173). -/
theorem ofNat_one_xor_one (k : Nat) : BitVec.ofNat 1 k ^^^ 1#1 = BitVec.ofNat 1 (k + 1) := by
  rw [BitVec.ofNat_add, BitVec.add_eq_xor]

/-- Settles O41, by induction on the number of dispatches: the next one finds the counter at their parity. -/
theorem multiVectorCompletionsAlternate : Obligations.MultiVectorCompletionsAlternate := by
  intro k s hmode hc
  induction k with
  | zero => simpa [dispatches] using hc
  | succ k ih =>
    obtain ⟨hevents, hcounter⟩ := ih
    rw [dispatches_succ, dispatch_events, dispatch_vectorTurnCounter, dispatches_mode, hmode, hevents, hcounter]
    refine ⟨?_, ofNat_one_xor_one k⟩
    simp [signalOf, ofNat_one_eq_zero_iff, List.range_succ]

/-! ### What moves the legacy line -/

/-- A transfer never lowers the line. -/
theorem transfer_keeps_line_asserted (dir : Direction) (ext loc : Addr) (n : Word) {s : State} (h : s.intxLevel = true) :
    (transfer dir ext loc n s).intxLevel = true := by
  obtain ⟨_, hdone | hfailed⟩ := transfer_cases dir ext loc n s
  · rw [hdone.line, h]
    cases s.mode <;> rfl
  · rw [hfailed.line, h]

theorem commandWrite_keeps_line_asserted {dt : DualTrigger} {v : Word} {s t : State} (h : commandWrite dt v s = .next t)
    (hs : s.intxLevel = true) : t.intxLevel = true := by
  obtain ⟨u, hu, rfl⟩ := commandWrite_keeps (P := fun u => u.intxLevel = true) h (by simpa using hs)
    (fun dir u _ hu => transfer_keeps_line_asserted dir _ _ _ hu)
  simpa using hu

theorem exec_rdStatus_line {w : Width} {s t : State} (h : exec (.rdStatus w) s = .next t) :
    t.intxLevel = if s.mode = .legacy then false else s.intxLevel := by
  obtain rfl := Host.Outcome.next.inj ((exec_rdStatus w s).symm.trans h)
  simp [legacyClear_intxLevel]

/-- A command write that moves the line raises it, in legacy mode. -/
theorem commandWrite_line_cases {dt : DualTrigger} {v : Word} {s t : State} (h : commandWrite dt v s = .next t) :
    t.intxLevel = s.intxLevel ∨ s.mode = .legacy ∧ t.intxLevel = true := by
  by_cases hmode : s.mode = .legacy
  · cases hs : s.intxLevel with
    | true => exact .inl (commandWrite_keeps_line_asserted h hs)
    | false => cases t.intxLevel <;> simp [hmode]
  · exact .inl ((commandWrite_frame h).line hmode)

/-- An instruction that moves the line runs in legacy mode: a command write that raises it, or a status read that lowers it. -/
theorem exec_line_cases {i : Instr} {s t : State} (h : exec i s = .next t) :
    t.intxLevel = s.intxLevel ∨ s.mode = .legacy ∧
      (t.intxLevel = true ∧ IsWriteOf .command i ∨ t.intxLevel = false ∧ ∃ w, i = .rdStatus w) := by
  rcases exec_outputs_cases h with hc | ⟨w, rfl⟩ | ⟨hline, _⟩
  · obtain ⟨d, hd⟩ := exec_of_isWriteOf_command (s := s) hc
    exact (commandWrite_line_cases (hd ▸ h)).imp_right fun ⟨hmode, ht⟩ => ⟨hmode, .inl ⟨ht, hc⟩⟩
  · have ht := exec_rdStatus_line h
    split at ht
    · next hmode => exact .inr ⟨hmode, .inr ⟨ht, w, rfl⟩⟩
    · exact .inl ht
  · exact .inl hline

/-- Settles O42: the legacy clear within the status read, and what can move the line at all. -/
theorem lineChangesOnlyInLegacyMode : Obligations.LineChangesOnlyInLegacyMode := by
  refine ⟨fun w s hm => ⟨_, exec_rdStatus w s, ?_⟩, fun w s hm => ⟨_, exec_rdStatus w s, ?_⟩, fun i s t h hs ht => ?_,
    fun i s t h hs ht => ?_⟩
  · simp [legacyClear_intxLevel, legacyClear_events, hm]
  · simp [legacyClear_intxLevel, legacyClear_events, hm]
  · simpa [hs, ht] using exec_line_cases h
  · simpa [hs, ht] using exec_line_cases h

/-! ### The line and the status (42_interrupt_dispatcher.md R178) -/

theorem LegacyCoherent.of_eq {s t : State} (h : LegacyCoherent s) (hmode : t.mode = s.mode) (hline : t.intxLevel = s.intxLevel)
    (hstatus : t.reg .status = s.reg .status) : LegacyCoherent t := by
  unfold LegacyCoherent
  rw [hmode, hline, hstatus]
  exact h

/-- A completion leaves a code that is not 0 and the line asserted; a failure leaves both. -/
theorem LegacyCoherent.transfer {s : State} (h : LegacyCoherent s) (dir : Direction) (ext loc : Addr) (n : Word) :
    LegacyCoherent (transfer dir ext loc n s) := by
  obtain ⟨hframe, hdone | hfailed⟩ := transfer_cases dir ext loc n s
  · obtain ⟨hmode, _⟩ := h
    refine ⟨hframe.mode.trans hmode, ?_⟩
    rw [hdone.line, hdone.status, hmode]
    cases dir <;> simp [lineAfter, Direction.code]
  · exact h.of_eq hframe.mode hfailed.line hfailed.status

theorem commandWrite_legacyCoherent {dt : DualTrigger} {v : Word} {s t : State} (hs : LegacyCoherent s)
    (h : commandWrite dt v s = .next t) : LegacyCoherent t := by
  obtain ⟨u, hu, rfl⟩ := commandWrite_keeps (P := LegacyCoherent) h (hs.of_eq rfl rfl rfl)
    (fun dir u _ hu => hu.transfer dir _ _ _)
  exact hu.of_eq rfl rfl rfl

/-- A status read in legacy mode clears both; every instruction but it, a command write and a status write leaves both. -/
theorem exec_legacyCoherent {i : Instr} {s t : State} (hs : LegacyCoherent s) (h : exec i s = .next t)
    (hw : ¬ IsWriteOf .status i) : LegacyCoherent t := by
  rcases exec_next h with ⟨p, rfl⟩ | rfl | ⟨w, rfl, rfl⟩ | ⟨w, d, r, _, rfl, rfl⟩ | ⟨w, d, _, hc⟩
  · exact hs
  · exact hs
  · obtain ⟨hmode, _⟩ := hs
    exact ⟨by simpa using hmode, by simp [legacyClear_intxLevel, hmode]⟩
  · have hr : Reg.status ≠ r := by
      rintro rfl
      exact hw ⟨w, d, rfl⟩
    exact hs.of_eq (by simp) (by simp) (by simp [State.setReg_reg_other s _ hr])
  · exact commandWrite_legacyCoherent hs hc

/-- Settles O44, by the cases of a step; a reset clears the line and the status and keeps the mode. -/
theorem legacyLineFollowsTheStatus : Obligations.LegacyLineFollowsTheStatus := by
  intro s t hs h hmove
  obtain ⟨_, _, ⟨_, rfl⟩ | ⟨m, rest, hp, ⟨i, hm, hi⟩ | ⟨k, hm, _⟩ | ⟨_, rfl⟩⟩⟩ := step_next h
  · exact hs
  · exact exec_legacyCoherent (s := s.dropMove) hs hi ((hmove m rest hp).1 i hm)
  · exact absurd hm ((hmove m rest hp).2 k)
  · obtain ⟨hmode, _⟩ := hs
    exact ⟨hmode, by simp [State.restart, State.resetWith, State.reg]⟩

end Sys2Proof.Machine

/-! SUPPORT. The family of the exceptions: which descriptors decode, why no deliverable access stops, a transfer that fails, the
overrun of the second transfer, the outcomes of two transfers. -/

namespace Sys2Proof

/-! ### The reserved bit (30_encoding.md R82) -/

theorem decodeTxn_reservedBit {t : BitVec 16} (wdata : Data) (h : descRsv t = true) : decodeTxn t wdata = .error .reservedBit := by
  simp [decodeTxn, h]

/-- A descriptor without the reserved bit decodes by its size code: an 8-byte access, or one of an honoured width. -/
theorem decodeTxn_completes {t : BitVec 16} {wdata : Data} (hrsv : descRsv t = false)
    (hfits : ∀ w, widthOf (descSz t) = some w → descDir t = true → w.fits wdata = true) : ∃ i, decodeTxn t wdata = .ok i := by
  rw [← packDesc_fields hrsv]
  cases hsz : widthOf (descSz t) with
  | none =>
    rw [eq_three_of_widthOf hsz]
    exact ⟨_, decodeTxn_packDesc_wide _ _ _⟩
  | some w =>
    rw [code_of_widthOf hsz]
    cases hdir : descDir t with
    | false => exact ⟨_, decodeTxn_packDesc_read w _ _⟩
    | true => exact ⟨_, decodeTxn_packDesc_write _ (hfits w hsz hdir)⟩

/-- Settles O8: bit 15 is the reserved bit, and decides alone but for the fit of the data. -/
theorem descriptorsWithoutTheReservedBitDecode : Obligations.DescriptorsWithoutTheReservedBitDecode :=
  ⟨fun _ _ => decodeTxn_completes, fun _ => decodeTxn_reservedBit⟩

end Sys2Proof

namespace Sys2Proof.Machine

open Sys2Proof

/-! ### No deliverable access stops (60_exceptions.md R203) -/

/-- Every instruction answers a next state where both local ranges lie in the buffer. -/
theorem exec_completes (i : Instr) {s : State} (hr : InBounds .read s) (hw : InBounds .write s) : ∃ t, exec i s = .next t := by
  rcases instr_cases i with ⟨w, r, rfl⟩ | ⟨w, d, r, rfl⟩ | ⟨off, rfl⟩ | ⟨off, d, rfl⟩ | ⟨w, off, rfl⟩ | ⟨w, off, d, rfl⟩
  · obtain ⟨t, ht, _⟩ := exec_readOf_response w r s
    exact ⟨t, ht⟩
  · by_cases h : r = .command
    · subst h
      exact commandWrite_completes Config.dualTrigger (writeValue d) hr hw
    · exact ⟨_, exec_writeOf w d s h⟩
  · exact ⟨_, rfl⟩
  · exact ⟨_, rfl⟩
  · exact ⟨_, rfl⟩
  · exact ⟨_, rfl⟩

/-- Settles O16: the bus packs the access into a transaction that decodes, and every instruction completes. -/
theorem everyDeliverableAccessCompletes : Obligations.EveryDeliverableAccessCompletes := by
  intro s offset width write value rest hf hr hp hwidth hoff hbr hbw
  obtain ⟨_, _, hdelivered⟩ := busRefusesExactlyUndeliverableAccesses offset width write value
  obtain ⟨t, wdata, i, hpack, _, _, _, _, _, _, hdec⟩ := hdelivered hwidth hoff
  have hreg : ∀ q, isDescriptor q = true → ({ s with pending := rest } : State).reg q = s.reg q := fun q _ => by cases q <;> rfl
  rw [stepRunsTheDeliveredAccess s offset width write value t wdata rest i hf hr hp hpack hdec]
  exact exec_completes i ((inBounds_congr hreg .read).mpr hbr) ((inBounds_congr hreg .write).mpr hbw)

/-! ### A transfer that fails (60_exceptions.md R202) -/

/-- A failed read leaves draws in its whole range (41_dma_engine.md R157). -/
theorem transfer_read_localBuffer_of_fail (ext loc : Addr) (n : Word) {s : State} (h : s.nextAnswer = .fail) :
    (transfer .read ext loc n s).localBuffer =
      Memory.writeBytes s.localBuffer loc.toNat ((List.range n.toNat).map (Config.failedReadByte (s.draws + 1))) := by
  simp [transfer, dmaRead, State.readResult_fail n h, failRead, State.memRead_eq]

theorem callEvent_read_of_fail (ext loc : Addr) (n : Word) {s : State} (h : s.nextAnswer = .fail) :
    callEvent .read ext loc n s = .extRead ext n .fail := by
  rw [callEvent, State.readResult_fail n h]

theorem callEvent_write_of_fail (ext loc : Addr) (n : Word) {s : State} (h : s.nextAnswer = .fail) :
    callEvent .write ext loc n s = .extWrite ext n (s.bufBytes loc.toNat n.toNat) false := by
  rw [callEvent, State.writeResult_fail h]

/-- A command write whose one transfer fails has that transfer's outcome and leaves its buffer. -/
theorem exec_wrCmd_of_fail {dir : Direction} {wdata : Data} {s : State} (w : Width) (hsel : Selects dir wdata) (hb : InBounds dir s)
    (hfail : s.nextAnswer = .fail) :
    ∃ t, exec (.wrCmd w wdata) s = .next t ∧
      TransferFailed (callEvent dir (s.extAddr dir) (s.localOffset dir) (s.reg .size) s.noResponse) s t ∧
      t.localBuffer = (transfer dir (s.extAddr dir) (s.localOffset dir) (s.reg .size) s.noResponse).localBuffer := by
  have hd : ∀ q, isDescriptor q = true → s.noResponse.reg q = s.reg q := fun q _ => State.noResponse_reg s q
  have ht : s.noResponse.transferred dir = transfer dir (s.extAddr dir) (s.localOffset dir) (s.reg .size) s.noResponse := by
    rw [State.transferred, State.extAddr_congr hd, State.localOffset_congr hd, State.transferSize_congr hd, State.transferSize]
  obtain ⟨_, hstatus, hevents, hcounter, hline⟩ :=
    transfer_of_fail dir (s.extAddr dir) (s.localOffset dir) (s.reg .size) (s := s.noResponse) hfail
  refine ⟨_, (exec_wrCmd_of_selects w s hsel).trans (dma_andThen_clearCommand hb _), ?_, ?_⟩ <;> rw [ht]
  · exact ⟨hstatus, hevents, hcounter, hline⟩
  · exact State.setReg_localBuffer _ _ _

/-- Settles O32: the failed transfer's outcome and its buffer, within the frame of a command write. -/
theorem failedTransferIsSilent : Obligations.FailedTransferIsSilent := by
  intro dir w wdata s hsel hb hfail
  obtain ⟨t, ht, hfailed, hbuf⟩ := exec_wrCmd_of_fail w hsel hb hfail
  obtain ⟨hf, hcmd, hregs⟩ := exec_wrCmd_next ht
  have hreg : ∀ q, q ≠ .command → t.reg q = s.reg q := by
    intro q hq
    by_cases hs : q = .status
    · exact hs ▸ hfailed.status
    · exact hregs q hs hq
  refine ⟨t, _, ht, hcmd, hreg, hfailed.events, isExternal_callEvent dir _ _ _ _, isSignal_callEvent dir _ _ _ _, hfailed.counter,
    hfailed.line, hf.mode, hf.pending, ?_, ?_, fun _ a ha => hf.bufByte a (.inl ha), ?_, ?_⟩
  · rintro rfl
    exact callEvent_read_of_fail _ _ _ hfail
  · rintro rfl
    refine ⟨s.draws + 1, fun i hi => ?_⟩
    have hdraws := hbuf.trans (transfer_read_localBuffer_of_fail _ _ _ hfail)
    exact (State.bufByte_of_writeBytes (s := s) hdraws i (by simpa using hi)).trans (by simp)
  · rintro rfl
    exact callEvent_write_of_fail _ _ _ hfail
  · rintro rfl a
    obtain ⟨_, hkeeps⟩ := writeTransferSendsBufferBytesOut
    exact hkeeps w wdata s t hsel ht a

/-! ### The overrun of the second transfer (60_exceptions.md R204, R206) -/

/-- A completed transfer of a command write leaves the descriptor the next one reads. -/
theorem descriptor_of_dma_withCommand {dir : Direction} {v : Word} {s u : State} (h : dma dir (s.withCommand v) = .next u)
    {q : Reg} (hq : isDescriptor q = true) : u.reg q = s.reg q := by
  obtain ⟨_, rfl⟩ := dma_next h
  exact (State.transferred_descriptor _ dir hq).trans ((commandFrame_start v s).descriptor q hq)

/-- Out of bounds, the second transfer faults in the state the first has left. -/
theorem commandWrite_of_second_overrun {dt : DualTrigger} {first second : Direction} {v : Word} {s u : State}
    (h0 : v.getLsbD 0 = true) (h1 : v.getLsbD 1 = true) (hdt : dualDirections dt = [first, second])
    (hfirst : dma first (s.withCommand v) = .next u) (hsecond : ¬ InBounds second s) :
    commandWrite dt v s =
      .fault (.bufferOverrun second (s.localOffset second) (s.reg .size) { u with faulted := true }) := by
  have hd : ∀ q, isDescriptor q = true → u.reg q = s.reg q := fun q => descriptor_of_dma_withCommand hfirst
  rw [commandWrite_of_both dt s h0 h1, dualTransfer_of_two hdt, hfirst, andThen_next,
    dma_overrun (mt (inBounds_congr hd second).mp hsecond), State.localOffset_congr hd, State.transferSize_congr hd]
  rfl

/-- Settles O36: the two orders of the two transfers. -/
theorem overrunOfTheSecondTransferKeepsTheFirst : Obligations.OverrunOfTheSecondTransferKeepsTheFirst :=
  fun _ _ _ h0 h1 => ⟨commandWrite_of_second_overrun h0 h1 rfl, commandWrite_of_second_overrun h0 h1 rfl⟩

/-! ### The outcomes of two transfers (60_exceptions.md R206) -/

/-- What a transfer answered by `a` does to the status, the signals and the answers, whether it succeeds or fails. -/
structure Answered (dir : Direction) (a : ExtAnswer) (s t : State) : Prop where
  status : t.reg .status = if a ≠ .fail then Direction.code dir else s.reg .status
  events : ∃ es, t.events = s.events ++ es ∧ es.filterMap eventDirection = [dir] ∧
    (es.filter isSignal).length = if a ≠ .fail then 1 else 0
  extAnswers : t.extAnswers = s.extAnswers.tail

/-- A transfer is answered by the first of the host's waiting answers. -/
theorem transferred_answered (dir : Direction) {s : State} {a : ExtAnswer} {rest : List ExtAnswer} (h : s.extAnswers = a :: rest) :
    Answered dir a s (s.transferred dir) := by
  have ha : s.nextAnswer = a := by simp [State.nextAnswer, h]
  unfold State.transferred
  cases a with
  | ok bs =>
    obtain ⟨hframe, hdone⟩ := transfer_of_ok dir (s.extAddr dir) (s.localOffset dir) s.transferSize ha
    exact ⟨by simpa using hdone.status, ⟨_, hdone.events, by simp, by simp⟩, hframe.extAnswers⟩
  | fail =>
    obtain ⟨hframe, hfailed⟩ := transfer_of_fail dir (s.extAddr dir) (s.localOffset dir) s.transferSize ha
    exact ⟨by simpa using hfailed.status, ⟨_, hfailed.events, by simp, by simp⟩, hframe.extAnswers⟩

/-- Settles O55: the second transfer is answered in the state the first leaves, whatever the first answer was. -/
theorem dualTriggerTransfersHaveTheirOwnOutcomes : Obligations.DualTriggerTransfersHaveTheirOwnOutcomes := by
  intro dt first second v s a b rest h0 h1 hdt hbr hbw hans
  have hb : ∀ dir, InBounds dir s := fun
    | .read => hbr
    | .write => hbw
  have hfirst : Answered first a (s.withCommand v) ((s.withCommand v).transferred first) := transferred_answered first hans
  have hans' : ((s.withCommand v).transferred first).extAnswers = b :: rest := by
    rw [hfirst.extAnswers]
    exact congrArg List.tail hans
  have hsecond := transferred_answered second hans'
  obtain ⟨es, he, hdir, hsig⟩ := hfirst.events
  obtain ⟨es', he', hdir', hsig'⟩ := hsecond.events
  refine ⟨_, es ++ es', commandWrite_of_two h0 h1 hdt (hb first) (hb second), ?_, ?_, ?_, ?_, ?_, ?_⟩
  · simp [he', he]
  · simp [hdir, hdir']
  · simp [State.setReg_reg_other, hsecond.status, hfirst.status]
  · simp [hsig, hsig']
  · simp
  · simp [hsecond.extAnswers, hans']

end Sys2Proof.Machine

/-! SUPPORT. The family of reset and the hazards: what the unwritten buffer reads as, what a restart leaves, a step with no move of
the host waiting; then the obligations about reset and the host's moves that run no transaction. -/

namespace Sys2Proof.Machine

open Sys2Proof

/-! ### The reset state (70_reset_and_hazards.md R230) -/

/-- With no byte written, every offset reads as `BUF_INIT`. -/
theorem State.bufByte_of_localBuffer_nil {s : State} (h : s.localBuffer = []) (i : Nat) : s.bufByte i = Config.bufInit i := by
  simp [State.bufByte, h]

/-- Settles O1: the buffer is the unwritten one, and every other component is a field of the reset state. -/
theorem resetLeavesEveryComponentAtItsValue : Obligations.ResetLeavesEveryComponentAtItsValue := by
  intro d m
  have hbuf : ∀ i, i < 4096 → (State.resetWith d m).bufByte i = Config.bufInit i :=
    fun i _ => State.bufByte_of_localBuffer_nil rfl i
  exact ⟨rfl, rfl, rfl, rfl, rfl, rfl, rfl, rfl, hbuf, rfl, rfl, rfl, rfl⟩

/-! ### The reset move -/

/-- The mode a restart keeps has no part in the registers' reset values. -/
theorem State.restart_reg (s : State) (q : Reg) : s.restart.reg q = State.reset.reg q := by cases q <;> rfl

theorem State.bufByte_restart (s : State) (i : Nat) : s.restart.bufByte i = Config.bufInit i :=
  State.bufByte_of_localBuffer_nil rfl i

/-- Settles O2: the step is the restart of the state from which the move has been taken. -/
theorem resetMoveRestoresTheResetState : Obligations.ResetMoveRestoresTheResetState := by
  intro s rest hf hr hp
  have hstep : step s = .next ({ s with pending := rest } : State).restart := by
    rw [step_runMove hf hr hp, State.dropMove_eq hp]
    rfl
  exact ⟨_, hstep, State.restart_reg _, State.bufByte_restart _, rfl, rfl, rfl, rfl, rfl, rfl, rfl, rfl, rfl⟩

/-! ### Waiting and mode changes (R231, 42_interrupt_dispatcher.md R170) -/

/-- A step from an unmarked state with no move waiting leaves the state as it is. -/
theorem step_of_pending_nil {s : State} (hf : s.faulted = false) (hr : s.refused = false) (hp : s.pending = []) :
    step s = .next s := by
  simp [step, runNext, hf, hr, hp]

/-- Settles O15: the block waits, or the mode changes on the state from which the move has been taken. -/
theorem hostMovesThatRunNoTransaction : Obligations.HostMovesThatRunNoTransaction := by
  intro s hf hr
  refine ⟨step_of_pending_nil hf hr, fun m rest hp => ?_⟩
  rw [step_runMove hf hr hp, State.dropMove_eq hp]
  rfl

end Sys2Proof.Machine
